-- ==== Sys2Proof/Word.lean ====
section
/-! DEFINITION. The word types of the block: bytes, the 16-bit size field and the 32-bit checksum (00_scope R8, R11). -/

namespace Sys2Proof

/-- An unsigned 8-bit value (R11). -/
abbrev Byte := BitVec 8

/-- An unsigned 16-bit value (R11): the size field (R8). -/
abbrev U16 := BitVec 16

/-- An unsigned 32-bit value (R11): the checksum (R8). -/
abbrev U32 := BitVec 32

end Sys2Proof
end

