-- ==== Sys2Proof/Config.lean ====
section
/-! DEFINITION. The configuration record of 00_scope R7, the nine message types (30_encoding R84), and the free
values behind the draws (00_scope R13). The record is plain data and stands in State; no step writes it (log entry 3). -/

namespace Sys2Proof

/-- The message types the source names (30_encoding R84). -/
inductive MsgType where
  | deviceInfo | clientConfig | packet | scanStart | scanStop | scanApGet | scanApCount | scanApInfo | invalid
deriving DecidableEq, Repr

/-- `TYPE_CODE`: the byte of each message type (R7, R84, D6). -/
structure TypeCodes where
  deviceInfo   : Byte
  clientConfig : Byte
  packet       : Byte
  scanStart    : Byte
  scanStop     : Byte
  scanApGet    : Byte
  scanApCount  : Byte
  scanApInfo   : Byte
  invalid      : Byte
deriving DecidableEq, Repr

/-- The order in which a CRC takes the bits of a byte; the polynomial is written in the same order. -/
inductive CrcOrder where
  /-- Least significant bit first, shifting right: the reflected form, the default's (40_codec R110). -/
  | reflected
  /-- Most significant bit first, shifting left. -/
  | unreflected
deriving DecidableEq, Repr

/-- A CRC-32 by its parameters: the order of the input bits, the polynomial, the initial value, whether the register is
reversed at the end, and the final XOR (40_codec R110). -/
structure CrcParams where
  order  : CrcOrder
  poly   : U32
  start  : U32
  reverseOut : Bool
  xorOut : U32
deriving DecidableEq, Repr

/-- `CRC_FN` as plain data (R7, 40_codec R110, D5; log entry 4): a CRC-32 by its parameters, or the n-th checksum of a
family of which nothing is known but R110's shape. -/
inductive CrcFn where
  | params (p : CrcParams)
  | other (n : Nat)
deriving DecidableEq, Repr

/-- `INTRON_ON_RESET`: whether a hard reset redraws the intron (R7, D32). -/
inductive IntronPolicy where
  | keep | rerandomize
deriving DecidableEq, Repr

/-- The configuration record: the thirteen parameters of R7, `INTRON_FIXED` as its two bytes. -/
structure Config where
  /-- `N`, the intron's length. -/
  intronLen : Nat
  /-- `INTRON_FIXED`, byte 0. -/
  fixed0 : Byte
  /-- `INTRON_FIXED`, byte 1. -/
  fixed1 : Byte
  /-- `CRC_FN`. -/
  crc : CrcFn
  /-- `TYPE_CODE`. -/
  typeCode : TypeCodes
  /-- `SUPPORTED_VERSION`. -/
  supportedVersion : Byte
  /-- `DEVICE_INFO_LEN`, 6 in every record that R7 admits. -/
  deviceInfoLen : Nat
  /-- `AP_COUNT_LEN`, 1 in every record that R7 admits. -/
  apCountLen : Nat
  /-- `AP_INFO_LEN`. -/
  apInfoLen : Nat
  /-- `RING_SIZE`. -/
  ringSize : Nat
  /-- `DEBUG_BUILD`. -/
  debugBuild : Bool
  /-- `FRAG_DELAY`: kept as a parameter; no rule of the state reads it (41_transmit R133, 70 R302). -/
  fragDelay : Nat
  /-- `INTRON_ON_RESET`. -/
  intronOnReset : IntronPolicy
  /-- `NCALLERS`. -/
  nCallers : Nat
deriving DecidableEq, Repr

/-- The initial value, the step and the end of the n-th checksum given by no parameters (40_codec R110, D5). Free values,
log entry 4. -/
opaque Config.otherCrcStart : Nat → U32

@[inherit_doc Config.otherCrcStart]
opaque Config.otherCrcStep : Nat → U32 → Byte → U32

@[inherit_doc Config.otherCrcStart]
opaque Config.otherCrcFinal : Nat → U32 → U32

/-- The n-th random byte (00_scope R13 `draw`, 93 U8) when the schedule supplies none. Free value, log entry 2. -/
opaque Config.freeByte : Nat → Byte

/-- The n-th answer of the hardware start primitive (41_transmit R132, 93 U9) when the schedule supplies none:
`true` is `started`. Free value, log entry 2. -/
opaque Config.freeStart : Nat → Bool

/-- The n-th length of what a failed transfer leaves on the wire (41_transmit R134, 93 U10) when the schedule
supplies none. Free value, log entry 2. -/
opaque Config.freeSent : Nat → Nat

/-- The n-th answer of `Alloc` (20_memory R64, 93 U11) when the schedule supplies none. Free value, log entry 2. -/
opaque Config.freeAlloc : Nat → Option (List Nat)

/-- What a ring byte holds that nothing has written (10_state R38, 93 U14), by its index. Free value, log entry 6. -/
opaque Config.unwrittenRing : Nat → Byte

/-- What a fresh fragment's byte holds (20_memory R64), by the fragment's index and the byte's. Free value, log entry 7. -/
opaque Config.freshFragByte : Nat → Nat → Byte

end Sys2Proof
end

