-- ==== Sys2Proof/Machine/Codec.lean ====
section
/-! DEFINITION. The framing codec (40_codec) and the byte-order helpers (00_scope R12): pure functions, which the
decoder, the transmit framer and the receive parser share. -/

namespace Sys2Proof.Machine

open Sys2Proof

/-! ## Byte order (00_scope R12, 20_memory R62) -/

/-- `be16(x) = [x[15:8], x[7:0]]`. -/
def be16 (x : U16) : List Byte := [(x >>> 8).setWidth 8, x.setWidth 8]

/-- `be32(x) = [x[31:24], x[23:16], x[15:8], x[7:0]]`. -/
def be32 (x : U32) : List Byte :=
  [(x >>> 24).setWidth 8, (x >>> 16).setWidth 8, (x >>> 8).setWidth 8, x.setWidth 8]

/-- `unbe16([a, b]) = a·256 + b`. -/
def unbe16 (a b : Byte) : U16 := a ++ b

/-- `unbe32([a, b, c, d]) = a·2^24 + b·2^16 + c·2^8 + d`. -/
def unbe32 (a b c d : Byte) : U32 := (a ++ b) ++ (c ++ d)

/-! ## The message types (30_encoding R84) -/

/-- `TYPE_CODE(t)`. -/
def typeCodeOf (c : TypeCodes) : MsgType → Byte
  | .deviceInfo => c.deviceInfo
  | .clientConfig => c.clientConfig
  | .packet => c.packet
  | .scanStart => c.scanStart
  | .scanStop => c.scanStop
  | .scanApGet => c.scanApGet
  | .scanApCount => c.scanApCount
  | .scanApInfo => c.scanApInfo
  | .invalid => c.invalid

/-- The nine message types, in the order the source lists them. -/
def msgTypes : List MsgType :=
  [.deviceInfo, .clientConfig, .packet, .scanStart, .scanStop, .scanApGet, .scanApCount, .scanApInfo, .invalid]

/-- `TypeOf(b)`, the inverse of `TYPE_CODE`; `none` is UNKNOWN (42_rx_parser R162). -/
def typeOf (c : TypeCodes) (b : Byte) : Option MsgType :=
  msgTypes.find? fun t => typeCodeOf c t == b

/-! ## Fixed lengths (00_scope R7, R9) -/

/-- `FixedLen(t)` of 42_rx_parser R162; `none` for a type with no fixed payload. -/
def fixedLen (cfg : Config) : MsgType → Option Nat
  | .deviceInfo => some cfg.deviceInfoLen
  | .scanApCount => some cfg.apCountLen
  | .scanApInfo => some cfg.apInfoLen
  | _ => none

/-- `FIXED_CAP` (R9). -/
def fixedCap (cfg : Config) : Nat := max cfg.deviceInfoLen (max cfg.apCountLen cfg.apInfoLen)

/-! ## The configuration record (00_scope R7) -/

/-- The constraints R7 puts on the record's fields: `N ≥ 4`, `TYPE_CODE` injective, `DEVICE_INFO_LEN = 6`,
`AP_COUNT_LEN = 1`, `1 ≤ AP_INFO_LEN ≤ 65535`, `RING_SIZE ≥ 2`, `NCALLERS ≥ 1`. -/
abbrev configOk (cfg : Config) : Prop :=
  4 ≤ cfg.intronLen ∧ (msgTypes.map (typeCodeOf cfg.typeCode)).Nodup ∧
  cfg.deviceInfoLen = 6 ∧ cfg.apCountLen = 1 ∧ 1 ≤ cfg.apInfoLen ∧ cfg.apInfoLen ≤ 65535 ∧ 2 ≤ cfg.ringSize ∧ 1 ≤ cfg.nCallers

/-- The default `TYPE_CODE`: the source's listing order (R84, D6). -/
def defaultTypeCodes : TypeCodes :=
  { deviceInfo := 0x00, clientConfig := 0x01, packet := 0x02, scanStart := 0x03, scanStop := 0x04
    scanApGet := 0x05, scanApCount := 0x06, scanApInfo := 0x07, invalid := 0x08 }

/-- CRC-32/ISO-HDLC, the default `CRC_FN` (40_codec R110, D5). -/
def isoHdlc : CrcFn :=
  .params { order := .reflected, poly := 0xEDB88320, start := 0xFFFFFFFF, reverseOut := false, xorOut := 0xFFFFFFFF }

/-- The defaults of R7 and, for the parameters it leaves OPEN, the configuration of 95_test_vectors section 0.
DESIGN CHOICE, log entry 3. -/
def vectorConfig : Config :=
  { intronLen := 8, fixed0 := 0x55, fixed1 := 0x4E, crc := isoHdlc, typeCode := defaultTypeCodes
    supportedVersion := 0x0B, deviceInfoLen := 6, apCountLen := 1, apInfoLen := 4, ringSize := 32, debugBuild := false
    fragDelay := 0, intronOnReset := .keep, nCallers := 2 }

/-! ## The checksum (40_codec R110 to R113) -/

/-- One of the eight rounds of `crc_step`: R110's in the reflected order, its mirror image in the other. -/
def crcBit (p : CrcParams) (c : U32) : U32 :=
  match p.order with
  | .reflected => if c.getLsbD 0 then (c >>> 1) ^^^ p.poly else c >>> 1
  | .unreflected => if c.getLsbD 31 then (c <<< 1) ^^^ p.poly else c <<< 1

/-- A byte as it enters the checksum register: at the end from which the bits are taken. -/
def crcIn (p : CrcParams) (b : Byte) : U32 :=
  match p.order with
  | .reflected => b.setWidth 32
  | .unreflected => b.setWidth 32 <<< 24

/-- The eight rounds of a byte (R110). -/
def crcByte (p : CrcParams) (c : U32) (b : Byte) : U32 :=
  crcBit p (crcBit p (crcBit p (crcBit p (crcBit p (crcBit p (crcBit p (crcBit p (c ^^^ crcIn p b))))))))

/-- `CRC_INIT` (R110). -/
def crcStart : CrcFn → U32
  | .params p => p.start
  | .other n => Config.otherCrcStart n

/-- `crc_step(c, b)` (R110). -/
def crcStep : CrcFn → U32 → Byte → U32
  | .params p => crcByte p
  | .other n => Config.otherCrcStep n

/-- `crc_final(c)` (R110). -/
def crcFinal : CrcFn → U32 → U32
  | .params p, c => (if p.reverseOut then c.reverse else c) ^^^ p.xorOut
  | .other n, c => Config.otherCrcFinal n c

/-- Whether the generator polynomial has a constant term, as every CRC-32 in use has. -/
def hasConstantTerm (p : CrcParams) : Bool :=
  match p.order with
  | .reflected => p.poly.getLsbD 31
  | .unreflected => p.poly.getLsbD 0

/-- `CRC_FN(s)` (R110). -/
def crcFn (p : CrcFn) (s : List Byte) : U32 := crcFinal p (s.foldl (crcStep p) (crcStart p))

/-- `FrameCRC(I, H, P)` (R111). -/
def frameCrc (p : CrcFn) (intron header payload : List Byte) : U32 := crcFn p (intron ++ header ++ payload)

/-- `FrameCRC` by the fragment walk (R113): what the transmit framer computes. -/
def frameCrcWalk (p : CrcFn) (intron header : List Byte) (frags : List (List Byte)) : U32 :=
  crcFinal p (frags.foldl (fun c f => f.foldl (crcStep p) c) ((intron ++ header).foldl (crcStep p) (crcStart p)))

/-! ## Frames (30_encoding R80, 40_codec R112) -/

/-- The four header bytes: type, variable byte, big-endian size (R80, R82). -/
def headerBytes (t v : Byte) (size : Nat) : List Byte := [t, v] ++ be16 (BitVec.ofNat 16 size)

/-- A prelude with a given checksum field: intron, header, checksum (R80). -/
def framePrelude (intron : List Byte) (t v : Byte) (size : Nat) (checksum : U32) : List Byte :=
  intron ++ headerBytes t v size ++ be32 checksum

/-- The frame with a given checksum field, as it stands on the wire (R80). -/
def frameBytes (intron : List Byte) (t v : Byte) (checksum : U32) (payload : List Byte) : List Byte :=
  framePrelude intron t v payload.length checksum ++ payload

/-- `BuildFrame(I, t, v, P)` (40_codec R112). -/
def buildFrame (p : CrcFn) (intron : List Byte) (t v : Byte) (payload : List Byte) : List Byte :=
  frameBytes intron t v (frameCrc p intron (headerBytes t v payload.length) payload) payload

/-- `ClientConfigPayload(newI, ssid, pass)` (41_transmit R137). -/
def clientConfigPayload (newI ssid pass : List Byte) : List Byte :=
  newI ++ [BitVec.ofNat 8 ssid.length] ++ ssid ++ [BitVec.ofNat 8 pass.length] ++ pass

end Sys2Proof.Machine
end

