-- ==== Sys2Proof/Syntax.lean ====
section
/-! DEFINITION. The instructions: one constructor per row of spec/opcode_table.json, the nine frame types of the wire
format (30_encoding R84) and the seventeen operations (30_encoding R90). -/

namespace Sys2Proof

/-- A frame's fields but its type (30_encoding R80): the size field is the payload's length. The checksum is the
field as it stands on the wire, right or wrong. -/
structure Frame where
  intron   : List Byte
  var      : Byte
  checksum : U32
  payload  : List Byte
deriving DecidableEq, Repr

/-- The status operand of TX_DONE (41_transmit R134). -/
inductive DoneStatus where
  | ok | fail
deriving DecidableEq, Repr

/-- An instruction: a frame that arrives at the receive parser, or an operation of the interface. -/
inductive Instr where
  | deviceInfo (f : Frame)
  | clientConfig (f : Frame)
  | packet (f : Frame)
  | scanStart (f : Frame)
  | scanStop (f : Frame)
  | scanApGet (f : Frame)
  | scanApCount (f : Frame)
  | scanApInfo (f : Frame)
  | invalid (f : Frame)
  | init
  | reset
  | poll
  | rxByte (b : Byte)
  | rxFeed (bytes : List Byte)
  | send (t v : Byte) (frags : List (List Byte))
  | joinAp (ssid pass : List Byte)
  | modeCas (old new : Byte)
  | modeRead
  | linkUpRead
  | tickRead
  | macRead
  | apCountRead
  | apInfoTake
  | dmaWrite (b : Byte)
  | uartError
  | txDone (st : DoneStatus)
deriving DecidableEq, Repr

/-- The two encodings of the block (30_encoding, opening): the operation set and the wire format. The table's
`format` column names them "op" and "frame". -/
inductive Format where
  | op | frame
deriving DecidableEq, Repr

/-- Why bytes are no instruction. -/
inductive DecodeError where
  /-- No byte at all. -/
  | empty
  /-- The identifier is not in the table of 30_encoding R90 (93 U2). -/
  | unlistedOperation (id : Byte)
  /-- The operand bytes end before the operands do. -/
  | truncatedOperand
  /-- An operand byte that is no operand form of the operation encoding (log entry 10). -/
  | badOperand
  /-- Fewer bytes than the frame's length `N + 8 + size` (30_encoding R83). -/
  | truncatedFrame
  /-- The type byte is outside `TYPE_CODE` (30_encoding R87): such a frame is no row of the table, and its bytes go to the
  parser all the same (Machine/Fetch.lean, `undecoded`). -/
  | unlistedType (t : Byte)
deriving DecidableEq, Repr

end Sys2Proof
end

