-- ==== Sys2Proof/Machine/State.lean ====
section
/-! DEFINITION. The machine's state (10_state), the reasons a step stops, and the state at power-on. Plain data
throughout. The fields `cfg`, `tasks` and `env` are the model's own: the configuration record, what the agents have
in progress, and the inputs of the steps to come (log entries 1, 2, 3, 11). -/

namespace Sys2Proof.Machine

open Sys2Proof

/-! ## Names of the spec -/

/-- The operating modes (00_scope R18, 30_encoding R88). -/
inductive Mode where
  | uninitialized | waitInit | needAp | connectingAp | running | scanning | wrongFirmware
  | flashingErrorNotConnected | flashingErrorOther
deriving DecidableEq, Repr

/-- The parser's resting states (00_scope R17, 30_encoding R89). -/
inductive PState where
  | seekingIntron | header | checksumOnly | payloadStreaming | discard
deriving DecidableEq, Repr

/-- The agents (00_scope R14). `CALLER(k)` is an agent while `k < NCALLERS`. -/
inductive Agent where
  | poller | caller (k : Nat) | txhw | rxhw | alloc
deriving DecidableEq, Repr

/-- The fatal codes (60_exceptions R266). -/
inductive FatalCode where
  /-- F1: a chunk started while a completion is outstanding, or a completion with none outstanding. -/
  | doubleSignal
  /-- F2: INVALID received in a debug build. -/
  | invalidMessage
  /-- F3: MODE_CAS with a code outside 0..8. -/
  | impossibleMode
deriving DecidableEq, Repr

/-- The events with the information recorded (60_exceptions R260). -/
inductive Event where
  | crcMismatch (rtype : Byte)
  | outOfSync (skipped : Nat)
  | lengthError (rtype : Byte) (rsize : U16)
  | unknownType (rtype : Byte)
  | protocolError (rsize : U16)
  | uartError
deriving DecidableEq, Repr

/-- The notifications to the network-stack collaborator (10_state R48). -/
inductive LinkNote where
  | linkUp | linkDown
deriving DecidableEq, Repr

/-- What an operation returns (30_encoding R90, result column). -/
inductive Result where
  /-- OK (`true`) or FAIL of SEND and JOIN_AP. -/
  | sent (ok : Bool)
  /-- The count of bytes fed, of POLL. -/
  | count (n : Nat)
  | bool (b : Bool)
  | byte (b : Byte)
  | mac (m : Option (List Byte))
  | apInfo (e : Option (Byte × List Byte))
deriving DecidableEq, Repr

/-! ## Memories -/

/-- A byte memory: the bytes written, by rising address; an address not listed has not been written. -/
abbrev Memory := List Host.Cell

/-- A chain from the collaborator (20_memory R64): its fragments, each with its bytes. -/
abbrev Chain := List (List Byte)

/-! ## The registers, grouped as in 10_state -/

/-- Session and control registers (10_state section 2). -/
structure Session where
  /-- `MODE` (R23). -/
  mode : Mode
  /-- `INTRON` (R24). -/
  intron : List Byte
  /-- `ASSOCIATED` (R25). -/
  associated : Bool
  /-- `ACTIVITY` (R26). -/
  activity : Bool
  /-- `MAC` (R27). -/
  mac : Option (List Byte)
  /-- `AP_COUNT` (R28). -/
  apCount : Byte
  /-- `LAST_QUERY_INDEX` (R29). -/
  lastQuery : Option Byte
  /-- `AP_INFO_SLOT` (R29). -/
  apSlot : Option (Byte × List Byte)
deriving DecidableEq, Repr

/-- Receive-parser registers (10_state section 3). -/
structure Parser where
  /-- `PSTATE` (R30). -/
  pstate : PState
  /-- `IPOS` (R31). -/
  ipos : Nat
  /-- `IBUF` (R31). -/
  ibuf : List Byte
  /-- `HPOS` (R32). -/
  hpos : Nat
  /-- `HBUF` (R32). -/
  hbuf : List Byte
  /-- `RTYPE` (R33). -/
  rtype : Byte
  /-- `RVAR` (R33). -/
  rvar : Byte
  /-- `RSIZE` (R33). -/
  rsize : U16
  /-- `RCRC` (R33). -/
  rcrc : U32
  /-- `REMAIN` (R34). -/
  remain : U16
  /-- `FBUF` (R35). -/
  fbuf : List Byte
  /-- `FPOS` (R35). -/
  fpos : Nat
  /-- `CHAIN` (R36). -/
  chain : Option Chain
  /-- `CUR_FRAG` (R36). -/
  curFrag : Nat
  /-- `CUR_OFF` (R36). -/
  curOff : Nat
  /-- `SKIPPED` (R37). -/
  skipped : Nat
deriving DecidableEq, Repr

/-- DMA ring registers (10_state section 4). -/
structure Ring where
  /-- `RING` (R38). -/
  mem : Memory
  /-- `WPOS` (R39). -/
  wpos : Nat
  /-- `RPOS` (R40). -/
  rpos : Nat
  /-- `UART_ERR_PENDING` (R41). -/
  errPending : Bool
  /-- `RX_IRQ_EN` (R42). -/
  irqEn : Bool
deriving DecidableEq, Repr

/-- The status field of `TXSEQ` (R45). -/
inductive TxStatus where
  | running | ok | fail
deriving DecidableEq, Repr

/-- `TXSEQ` while a send is in flight (R45). -/
structure TxSeq where
  chunks : List (List Byte)
  k : Nat
  cur : Option (List Byte)
  status : TxStatus
deriving DecidableEq, Repr

/-- Transmit registers (10_state section 5). -/
structure Tx where
  /-- `LOCK` (R43): the k of `CALLER(k)`. -/
  lock : Option Nat
  /-- `TX_PENDING` (R44). -/
  pending : Bool
  /-- `TXSEQ` (R45). -/
  seq : Option TxSeq
  /-- `PENDING_INTRON` (R46). -/
  pendingIntron : Option (List Byte)
deriving DecidableEq, Repr

/-- `POLL_CTX` (R54): the snapshot of WPOS, the index of the next byte, the count of bytes to feed. -/
structure PollCtx where
  w : Nat
  j : Nat
  n : Nat
deriving DecidableEq, Repr

/-- Output streams (10_state section 6). -/
structure Outputs where
  /-- `WIRE_TX` (R47). -/
  wireTx : List Byte
  /-- `DELIVERED` (R48). -/
  delivered : List (List Byte)
  /-- `NETIF_LINK` (R48). -/
  netifLink : List LinkNote
  /-- `EVENTS` (R49). -/
  events : List Event
deriving DecidableEq, Repr

/-! ## What the agents have in progress (the model's own) -/

/-- The two operations that hold the writer lock, with their operands (41_transmit R130, R136). -/
inductive TxJob where
  | send (t v : Byte) (frags : List (List Byte))
  | join (ssid pass : List Byte)
deriving DecidableEq, Repr

/-- The labelled step a caller stands at, that is, the step it takes next (41_transmit R130, R136; log entry 11). -/
inductive TxStage where
  /-- S0: waiting for the lock. -/
  | acquire
  /-- J1. -/
  | prepare
  /-- S1. -/
  | build
  /-- S2. -/
  | start
  /-- S3: suspended until the chunk's completion. -/
  | resume
  /-- The inter-fragment delay of R133. -/
  | delay
  /-- J3, with the result of the send. -/
  | finish (ok : Bool)
deriving DecidableEq, Repr

/-- A caller's operation in progress. -/
inductive CallerOp where
  /-- An INIT that waits for the lock and for no poll in progress (45_control R240). -/
  | initWait
  /-- A RESET that waits for the same (R241). -/
  | resetWait
  | tx (job : TxJob) (stage : TxStage)
deriving DecidableEq, Repr

/-- The agents' operations in progress, and what operations gave to the outside. -/
structure Tasks where
  /-- By k: what `CALLER(k)` has in progress. -/
  callers : List (Option CallerOp)
  /-- The bytes an RX_FEED in progress has yet to feed (42_rx_parser R170). -/
  feed : List Byte
  /-- What operations returned, and to whom, in order (log entry 15). -/
  returns : List (Agent × Result)
  /-- The chains given back by `Release`, in order (20_memory R64; log entry 16). -/
  released : List Chain
deriving DecidableEq, Repr

/-! ## The inputs of the steps to come (the model's own) -/

/-- What an agent does when it is scheduled: it begins an operation, given by its bytes in one of the two encodings,
or it takes the next step of the operation it has in progress. -/
inductive Action where
  | issue (fmt : Format) (bytes : List Byte)
  | resume
deriving DecidableEq, Repr

/-- One element of the schedule (00_scope R14, 20_memory R70). -/
structure Input where
  agent : Agent
  act : Action
deriving DecidableEq, Repr

/-- The free inputs of the steps to come (00_scope R13 `draw`): one list for each kind of draw, taken from the front;
behind an empty list stand the free values of Config, at a counter that every draw advances (log entry 2). -/
structure Draws where
  bytes : List Byte
  starts : List Bool
  sents : List Nat
  allocs : List (Option (List Nat))
  taken : Nat
deriving DecidableEq, Repr

/-- The environment: the schedule, the agent of the current step, the draws. -/
structure Env where
  inputs : List Input
  agent : Agent
  draws : Draws
deriving DecidableEq, Repr

/-! ## The state -/

/-- Everything the spec gives the block, with the model's own fields `cfg`, `tasks` and `env`. -/
structure State where
  cfg : Config
  sess : Session
  rx : Parser
  ring : Ring
  poll : Option PollCtx
  tx : Tx
  out : Outputs
  halted : Option FatalCode
  inited : Bool
  tasks : Tasks
  env : Env
deriving DecidableEq, Repr

/-- Why a step stops with a fault. -/
inductive Fault where
  /-- Raised by every step and every operation while `HALTED` holds this code: the block is stuck, as the spec says
  (60_exceptions R268, 93 U4). Safe: the hardware does nothing further. -/
  | halted (c : FatalCode)
  /-- Raised by DMA_WRITE when `WPOS` is no index of the ring, which R39 excludes and no reachable state has (20_memory
  R60; log entry 17). Safe: the spec gives the ring no such byte. -/
  | outsideRing (index : Nat)
deriving DecidableEq, Repr

/-- Why a step has no meaning. -/
inductive Refusal where
  /-- Raised by exec for an instruction with no meaning in the model. Safe. -/
  | notModelled (mnemonic : String)
  /-- Raised by every operation but INIT before the first INIT (60_exceptions R270, 93 U1: "refuse"). Safe. -/
  | notInitialised
  /-- Raised when the agent is not one that the operation's row names, or no agent of the configuration (60_exceptions
  R276, 93 U3: "refuse"). Safe. -/
  | wrongAgent
  /-- Raised when the agent's earlier operation has not returned: an agent is one sequential task, so it issues
  nothing then (00_scope R13, R14; log entry 13). Safe. -/
  | agentBusy
  /-- Raised by step for the bytes of an operation that are none of 30_encoding R90: an identifier not listed ("a harness
  that issues one is refused", 93 U2), or operands of no form (R91, log entry 10). Bytes on the receive line are never
  refused (R87). Safe. -/
  | notAnInstruction (e : DecodeError)
deriving DecidableEq, Repr

/-- The answer of a meaning. -/
abbrev Answer := Host.Outcome State Fault Refusal

/-! ## Power-on (10_state R21, 70 R290) -/

/-- The machine at power-on under a configuration record: `MODE = UNINITIALIZED`, `HALTED = none`, `INITED = 0`; every
other register holds no value in the spec, and the value the model names here (DESIGN CHOICE, log entry 5). -/
def State.powerOn (cfg : Config) : State :=
  { cfg := cfg
    sess :=
      { mode := .uninitialized, intron := List.replicate cfg.intronLen 0, associated := false, activity := false
        mac := none, apCount := 0, lastQuery := none, apSlot := none }
    rx :=
      { pstate := .seekingIntron, ipos := 0, ibuf := List.replicate cfg.intronLen 0, hpos := 0
        hbuf := List.replicate 8 0, rtype := 0, rvar := 0, rsize := 0, rcrc := 0, remain := 0
        fbuf := List.replicate (fixedCap cfg) 0, fpos := 0, chain := none, curFrag := 0, curOff := 0
        skipped := 0 }
    ring := { mem := [], wpos := 0, rpos := 0, errPending := false, irqEn := false }
    poll := none
    tx := { lock := none, pending := false, seq := none, pendingIntron := none }
    out := { wireTx := [], delivered := [], netifLink := [], events := [] }
    halted := none
    inited := false
    tasks := { callers := List.replicate cfg.nCallers none, feed := [], returns := [], released := [] }
    env := { inputs := [], agent := .poller, draws := { bytes := [], starts := [], sents := [], allocs := [], taken := 0 } } }

/-- The machine at power-on under the defaults of R7 and, for the parameters it leaves OPEN, the values of
95_test_vectors section 0 (log entry 3). -/
def State.reset : State := State.powerOn vectorConfig

end Sys2Proof.Machine
end

