-- ==== Sys2Proof/Machine/Ops.lean ====
section
/-! DEFINITION. The shared operations: the pseudocode primitives of 00_scope R13, memory, draws, the fatal stop, and
the conditions under which an agent may begin an operation. -/

namespace Sys2Proof.Machine

open Sys2Proof

/-! ## Byte memory (20_memory R60) -/

/-- The canonical form: addresses strictly rising. An unlisted address has no value, so no entry can equal what an
unlisted address reads as. -/
abbrev Memory.wf (m : Memory) : Prop := m.Pairwise fun x y => x.1 < y.1

/-- The byte at an address, if one has been written. -/
def Memory.read : Memory → Nat → Option Byte
  | [], _ => none
  | (x, c) :: r, a => if x = a then some c else Memory.read r a

/-- `MemWrite(M, a, 1, b)`, keeping the canonical form. -/
def Memory.write : Memory → Nat → Byte → Memory
  | [], a, b => [(a, b)]
  | (x, c) :: r, a, b =>
    if a < x then (a, b) :: (x, c) :: r
    else if a = x then (a, b) :: r
    else (x, c) :: Memory.write r a b

/-- `MemRead(RING, i, 1)`: a byte nothing has written is a free value of its index (10_state R38; log entry 6). -/
def ringRead (m : Memory) (i : Nat) : Byte := (m.read i).getD (Config.unwrittenRing i)

/-! ## Output primitives -/

/-- `emit(ev)` (R13, 60_exceptions R260). -/
def emit (ev : Event) (s : State) : State := { s with out.events := s.out.events ++ [ev] }

/-- `wire_out(s)` (R13). -/
def wireOut (bytes : List Byte) (s : State) : State := { s with out.wireTx := s.out.wireTx ++ bytes }

/-- `append(NETIF_LINK, …)` (10_state R48). -/
def notify (n : LinkNote) (s : State) : State := { s with out.netifLink := s.out.netifLink ++ [n] }

/-- `return v` to the agent of the current operation (R13; log entry 15). -/
def giveResult (a : Agent) (v : Result) (s : State) : State :=
  { s with tasks.returns := s.tasks.returns ++ [(a, v)] }

/-! ## The fatal stop (60_exceptions R266 to R269) -/

/-- `raise Fatal(c)`: sets HALTED and ends the step (R267). Its callers write nothing after it. No state is saved and
control goes nowhere (R273); there is no return (R274): every later step is the fault `halted`. -/
def raiseFatal (c : FatalCode) (s : State) : State := { s with halted := some c }

/-- The rest of a step after an operation that may have raised a fatal stop: no further write of the step happens (R267). -/
def unlessHalted (rest : State → State) (s : State) : State := if s.halted.isSome then s else rest s

/-! ## MODE (10_state R23) -/

/-- `CAS(MODE, old, new)`: whether it writes is `s.sess.mode = old`. -/
def casMode (old new : Mode) (s : State) : State :=
  if s.sess.mode = old then { s with sess.mode := new } else s

/-! ## Draws (00_scope R13; log entry 2) -/

/-- `draw` of a byte (93 U8). -/
def drawByte (d : Draws) : Byte × Draws :=
  match d.bytes with
  | b :: r => (b, { d with bytes := r, taken := d.taken + 1 })
  | [] => (Config.freeByte d.taken, { d with taken := d.taken + 1 })

/-- `draw(bytes of length n)`. -/
def drawBytes : Nat → Draws → List Byte × Draws
  | 0, d => ([], d)
  | n + 1, d =>
    ((drawByte d).1 :: (drawBytes n (drawByte d).2).1, (drawBytes n (drawByte d).2).2)

/-- `draw({started, failed})` (41_transmit R132, 93 U9): `true` is `started`. -/
def drawStart (d : Draws) : Bool × Draws :=
  match d.starts with
  | b :: r => (b, { d with starts := r, taken := d.taken + 1 })
  | [] => (Config.freeStart d.taken, { d with taken := d.taken + 1 })

/-- `draw(0 .. len)` (41_transmit R134, 93 U10). -/
def drawSent (len : Nat) (d : Draws) : Nat × Draws :=
  match d.sents with
  | p :: r => (min p len, { d with sents := r, taken := d.taken + 1 })
  | [] => (min (Config.freeSent d.taken) len, { d with taken := d.taken + 1 })

/-- Fragment lengths that satisfy 20_memory R64 for `n` bytes, made from any list: each at least 1, their sum `n`. A
list that satisfies it already is left as it is, so every answer of R64 is drawn. -/
def splitLens : Nat → List Nat → List Nat
  | n, [] => if n = 0 then [] else [n]
  | n, l :: ls =>
    if n = 0 then [] else max 1 (min l n) :: splitLens (n - max 1 (min l n)) ls

/-- `Alloc(n)` (20_memory R64, 93 U11): `none` is `fail`; else the fragment lengths. -/
def drawAlloc (n : Nat) (d : Draws) : Option (List Nat) × Draws :=
  match d.allocs with
  | a :: r => (a.map (splitLens n), { d with allocs := r, taken := d.taken + 1 })
  | [] => ((Config.freeAlloc d.taken).map (splitLens n), { d with taken := d.taken + 1 })

/-- A fresh intron `INTRON_FIXED || draw(bytes of length N−2)` (45_control R240). -/
def drawIntron (cfg : Config) (d : Draws) : List Byte × Draws :=
  (cfg.fixed0 :: cfg.fixed1 :: (drawBytes (cfg.intronLen - 2) d).1, (drawBytes (cfg.intronLen - 2) d).2)

/-! ## Chains (20_memory R64, R65) -/

/-- One fresh fragment, the j-th: its bytes are free until written (log entry 7). -/
def freshFrag (j len : Nat) : List Byte := (List.range len).map (Config.freshFragByte j)

/-- A fresh chain with given fragment lengths, its fragments numbered from j. -/
def freshChainFrom : Nat → List Nat → Chain
  | _, [] => []
  | j, l :: ls => freshFrag j l :: freshChainFrom (j + 1) ls

/-- A fresh chain with given fragment lengths. -/
def freshChain (lens : List Nat) : Chain := freshChainFrom 0 lens

/-- `ChainBytes(chain)` (R64). -/
def chainBytes (c : Chain) : List Byte := c.flatten

/-- `MemWrite(frag_j, off, 1, b)` (R65). -/
def putByte (c : Chain) (j off : Nat) (b : Byte) : Chain := c.set j ((c.getD j []).set off b)

/-- `ChainWrite(b)` on the chain and the writer cursor (R65). -/
def chainWrite (b : Byte) (p : Parser) : Parser :=
  match p.chain with
  | none => p
  | some c =>
    if p.curOff + 1 = (c.getD p.curFrag []).length then
      { p with chain := some (putByte c p.curFrag p.curOff b), curFrag := p.curFrag + 1, curOff := 0 }
    else { p with chain := some (putByte c p.curFrag p.curOff b), curOff := p.curOff + 1 }

/-- `if CHAIN ≠ none then Release(CHAIN); CHAIN <- none` (R64, 43_rx_handlers R190; log entry 16). -/
def releaseChain (s : State) : State :=
  match s.rx.chain with
  | none => s
  | some c => { s with rx.chain := none, tasks.released := s.tasks.released ++ [c] }

/-- `Deliver(CHAIN); CHAIN <- none` (R64, 43_rx_handlers R196). -/
def deliverChain (s : State) : State :=
  match s.rx.chain with
  | none => s
  | some c => { s with rx.chain := none, out.delivered := s.out.delivered ++ [chainBytes c] }

/-! ## The agents' operations in progress (log entries 11, 13) -/

/-- What `CALLER(k)` has in progress. -/
def callerOp (s : State) (k : Nat) : Option CallerOp := s.tasks.callers.getD k none

/-- `CALLER(k)` goes to a step of its operation, or has returned from it. -/
def setCallerOp (k : Nat) (op : Option CallerOp) (s : State) : State :=
  { s with tasks.callers := s.tasks.callers.set k op }

/-- Whether the agent of the current step has an operation in progress. -/
def agentBusy (s : State) : Bool :=
  match s.env.agent with
  | .caller k => (callerOp s k).isSome
  | .poller => s.poll.isSome || !s.tasks.feed.isEmpty
  | _ => false

/-! ## Who may begin an operation (30_encoding R90, 60_exceptions R268, R270, R276) -/

/-- The agent column of 30_encoding R90. -/
inductive AgentClass where
  | caller | poller | rxhw | txhw | any
deriving DecidableEq, Repr

/-- `CALLER(k)` is an agent only while `k < NCALLERS` (00_scope R14). -/
def agentExists (cfg : Config) : Agent → Bool
  | .caller k => decide (k < cfg.nCallers)
  | _ => true

/-- Whether a row's agent column names the agent (60_exceptions R276, 93 U3). -/
def agentAllowed (cfg : Config) (c : AgentClass) (a : Agent) : Bool :=
  agentExists cfg a &&
  match c, a with
  | .caller, .caller _ => true
  | .poller, .poller => true
  | .rxhw, .rxhw => true
  | .txhw, .txhw => true
  | .any, _ => true
  | _, _ => false

/-- The index k of the current agent `CALLER(k)`. -/
def callerIndex (s : State) : Nat :=
  match s.env.agent with
  | .caller k => k
  | _ => 0

/-- The conditions every operation begins under, but INIT's `INITED`: no fatal stop (R268), an agent its row names
(R276), and that agent's earlier operation returned. -/
def enterAlways (c : AgentClass) (s : State) (body : State → Answer) : Answer :=
  match s.halted with
  | some code => .fault (.halted code)
  | none =>
    if agentAllowed s.cfg c s.env.agent then
      if agentBusy s then .refused .agentBusy else body s
    else .refused .wrongAgent

/-- The conditions every operation but INIT begins under: as `enterAlways`, and INITED = 1 (R270). -/
def enter (c : AgentClass) (s : State) (body : State → Answer) : Answer :=
  match s.halted with
  | some code => .fault (.halted code)
  | none => if s.inited then enterAlways c s body else .refused .notInitialised

/-- The conditions of `enter` as one proposition. -/
abbrev Ready (c : AgentClass) (s : State) : Prop :=
  s.halted = none ∧ s.inited = true ∧ agentAllowed s.cfg c s.env.agent = true ∧ agentBusy s = false

end Sys2Proof.Machine
end

