-- ==== Sys2Proof/Machine/Flags.lean ====
section
/-! DEFINITION. The flags of 10_state R52 and the computations the spec gives them: the link flag with its
notification and mode effect (43_rx_handlers R203), activity (R26), the UART error bit and its recovery (44 R223, R224),
the completion signal (R44). -/

namespace Sys2Proof.Machine

open Sys2Proof

/-- The link-up flag a PACKET's variable byte carries: any value but 0 means up (30_encoding R85, D11). -/
def linkUpOf (v : Byte) : Bool := v != 0

/-- `if up ≠ ASSOCIATED then ASSOCIATED <- up; append(NETIF_LINK, …)` (43_rx_handlers R203). -/
def setAssociated (up : Bool) (s : State) : State :=
  if up = s.sess.associated then s
  else notify (if up then .linkUp else .linkDown) { s with sess.associated := up }

/-- The mode effect of a link-up flag: `CAS(MODE, NEED_AP, RUNNING) or else CAS(MODE, CONNECTING_AP, RUNNING)`, one
atomic step (R203). -/
def linkUpMode (s : State) : State :=
  if s.sess.mode = .needAp then casMode .needAp .running s else casMode .connectingAp .running s

/-- `LinkFlag(v)` (R203). A link-down flag changes no mode (D40). -/
def linkFlag (v : Byte) (s : State) : State :=
  if linkUpOf v then linkUpMode (setAssociated true s) else setAssociated false s

/-- `ACTIVITY <- 1` (43_rx_handlers R196, R198). -/
def markActivity (s : State) : State := { s with sess.activity := true }

/-- The UART error interrupt: the pending bit and the event (44 R223). -/
def uartErrorSeen (s : State) : State := emit .uartError { s with ring.errPending := true }

/-- `Recover()` (44 R224): one atomic step, at whose end the interrupt enable is 1 again. -/
def recover (s : State) : State :=
  { s with ring.irqEn := true, ring.wpos := 0, ring.rpos := 0, ring.errPending := false }

/-- A chunk's transfer has started: `TX_PENDING <- 1; TXSEQ.cur <- ch; TXSEQ.status <- running` (41_transmit R132). -/
def chunkStarted (q : TxSeq) (ch : List Byte) (s : State) : State :=
  { s with tx.pending := true, tx.seq := some { q with cur := some ch, status := .running } }

/-- A chunk's completion has been taken: `TX_PENDING <- 0; TXSEQ.status <- st` (41_transmit R134). -/
def chunkDone (st : TxStatus) (s : State) : State :=
  { s with tx.pending := false, tx.seq := s.tx.seq.map fun q => { q with status := st } }

end Sys2Proof.Machine
end

