-- ==== Sys2Proof/Machine/Operands.lean ====
section
/-! DEFINITION. The operand and result forms: mode codes (30_encoding R88), parser-state, event and fatal codes (R89,
60_exceptions R260, R266), and the run-time checks on operand lengths (30_encoding R91). -/

namespace Sys2Proof.Machine

open Sys2Proof

/-- The code of a mode (R88): the result of MODE_READ. -/
def modeCode : Mode → Byte
  | .uninitialized => 0
  | .waitInit => 1
  | .needAp => 2
  | .connectingAp => 3
  | .running => 4
  | .scanning => 5
  | .wrongFirmware => 6
  | .flashingErrorNotConnected => 7
  | .flashingErrorOther => 8

/-- The mode of a code (R88): a MODE_CAS operand. Codes 9 to 255 are illegal. -/
def modeOfCode (b : Byte) : Option Mode :=
  match b.toNat with
  | 0 => some .uninitialized
  | 1 => some .waitInit
  | 2 => some .needAp
  | 3 => some .connectingAp
  | 4 => some .running
  | 5 => some .scanning
  | 6 => some .wrongFirmware
  | 7 => some .flashingErrorNotConnected
  | 8 => some .flashingErrorOther
  | _ => none

/-- The code of a parser state (R89). -/
def pstateCode : PState → Nat
  | .seekingIntron => 0
  | .header => 1
  | .checksumOnly => 2
  | .payloadStreaming => 3
  | .discard => 4

/-- The code of an event (60_exceptions R260). -/
def eventCode : Event → Nat
  | .crcMismatch _ => 1
  | .outOfSync _ => 2
  | .lengthError _ _ => 3
  | .unknownType _ => 4
  | .protocolError _ => 5
  | .uartError => 6

/-- The number n of a fatal code Fn (60_exceptions R266). -/
def fatalNumber : FatalCode → Nat
  | .doubleSignal => 1
  | .invalidMessage => 2
  | .impossibleMode => 3

/-- `Σ_j len(f_j)` of a SEND's fragments (41_transmit R130). -/
def fragsTotal (frags : List (List Byte)) : Nat := (frags.map List.length).sum

/-- Whether a SEND's payload fits the size field (R91, 41_transmit R130). -/
def payloadFits (frags : List (List Byte)) : Bool := decide (fragsTotal frags ≤ 65535)

/-- Whether a JOIN_AP's ssid and pass fit their one-byte lengths (R91, 41_transmit R136). -/
def credentialsFit (ssid pass : List Byte) : Bool := decide (ssid.length ≤ 255) && decide (pass.length ≤ 255)

/-- The chunks of a send: the prelude, then the fragments that are not empty (41_transmit R130, S1). -/
def sendChunks (cfg : Config) (intron : List Byte) (t v : Byte) (frags : List (List Byte)) : List (List Byte) :=
  framePrelude intron t v (fragsTotal frags)
      (frameCrcWalk cfg.crc intron (headerBytes t v (fragsTotal frags)) frags) ::
    frags.filter fun f => !f.isEmpty

end Sys2Proof.Machine
end

