-- ==== Sys2Proof/Machine/Control.lean ====
section
/-! DEFINITION. The control operations (45_control): INIT, RESET, the mode accesses and the status reads. -/

namespace Sys2Proof.Machine

open Sys2Proof

/-! ## INIT and RESET -/

/-- The parser's registers that INIT and RESET write (R240, R241). IBUF, HBUF, FBUF and the decoded header keep what
they hold (10_state R53; log entry 20). -/
def parserReset (p : Parser) : Parser :=
  { p with pstate := .seekingIntron, ipos := 0, hpos := 0, fpos := 0, remain := 0, chain := none
           curFrag := 0, curOff := 0, skipped := 0 }

/-- `if ASSOCIATED = 1 then append(NETIF_LINK, LINK_DOWN)` (R240). -/
def noteLinkDown (s : State) : State := if s.sess.associated then notify .linkDown s else s

/-- What INIT does for the collaborator when a session ends (R240, its first two lines). -/
def endSession (s : State) : State := if s.inited then releaseChain (noteLinkDown s) else s

/-- INIT's writes (R240, from `MODE <- WAIT_INIT` on). -/
def freshSession (s : State) : State :=
  { s with
    sess := { mode := .waitInit, intron := (drawIntron s.cfg s.env.draws).1, associated := false, activity := false
              mac := none, apCount := 0, lastQuery := none, apSlot := none }
    rx := parserReset s.rx
    ring := { s.ring with wpos := 0, rpos := 0, errPending := false, irqEn := true }
    poll := none
    tx := { lock := none, pending := false, seq := none, pendingIntron := none }
    inited := true
    env.draws := (drawIntron s.cfg s.env.draws).2 }

/-- The effect of INIT (R240). -/
def initNow (s : State) : State := freshSession (endSession s)

/-- Whether INIT has its step: always before the first INIT, later only with the lock free and no poll in progress
(R240). -/
def initEnabled (s : State) : Bool := !s.inited || (s.tx.lock.isNone && s.poll.isNone)

/-- INIT (R240). Where it must wait, the caller stays at it (log entry 12). -/
def execInit (s : State) : Answer :=
  enterAlways .caller s fun s =>
    .next (if initEnabled s then initNow s else setCallerOp (callerIndex s) (some .initWait) s)

/-- `INTRON <- INTRON_FIXED || draw(bytes of length N−2)`. -/
def redrawIntron (s : State) : State :=
  { s with sess.intron := (drawIntron s.cfg s.env.draws).1, env.draws := (drawIntron s.cfg s.env.draws).2 }

/-- The intron after a RESET: kept, or fresh under RERANDOMIZE (R241). -/
def resetIntron (s : State) : State :=
  match s.cfg.intronOnReset with
  | .keep => s
  | .rerandomize => redrawIntron s

/-- `if ASSOCIATED = 1 then ASSOCIATED <- 0; append(NETIF_LINK, LINK_DOWN)` (R241). -/
def dropAssociation (s : State) : State :=
  if s.sess.associated then notify .linkDown { s with sess.associated := false } else s

/-- The mode and the parser of a RESET, a held chain released (R241). -/
def resetParser (s : State) : State := { releaseChain s with sess.mode := .waitInit, rx := parserReset s.rx }

/-- The effect of RESET (R241). -/
def resetNow (s : State) : State := resetIntron (dropAssociation (resetParser s))

/-- Whether RESET has its step: the lock free and no poll in progress (R241). -/
def resetEnabled (s : State) : Bool := s.tx.lock.isNone && s.poll.isNone

/-- RESET (R241). Where it must wait, the caller stays at it (log entry 12). -/
def execReset (s : State) : Answer :=
  enter .caller s fun s =>
    .next (if resetEnabled s then resetNow s else setCallerOp (callerIndex s) (some .resetWait) s)

/-! ## Mode access -/

/-- The effect of MODE_CAS (R242). -/
def modeCas (old new : Byte) (s : State) : State :=
  match modeOfCode old, modeOfCode new with
  | some o, some n => giveResult s.env.agent (.bool (s.sess.mode == o)) (casMode o n s)
  | _, _ => raiseFatal .impossibleMode s

/-- MODE_CAS (R242). -/
def execModeCas (old new : Byte) (s : State) : Answer := enter .caller s fun s => .next (modeCas old new s)

/-- MODE_READ (R243). -/
def execModeRead (s : State) : Answer :=
  enter .any s fun s => .next (giveResult s.env.agent (.byte (modeCode s.sess.mode)) s)

/-! ## Status reads -/

/-- LINK_UP_READ (R244). -/
def execLinkUpRead (s : State) : Answer :=
  enter .any s fun s => .next (giveResult s.env.agent (.bool s.sess.associated) s)

/-- TICK_READ (R245): one atomic read and clear. -/
def execTickRead (s : State) : Answer :=
  enter .poller s fun s => .next (giveResult s.env.agent (.bool s.sess.activity) { s with sess.activity := false })

/-- MAC_READ (R246). -/
def execMacRead (s : State) : Answer :=
  enter .any s fun s => .next (giveResult s.env.agent (.mac s.sess.mac) s)

/-- AP_COUNT_READ (R247). -/
def execApCountRead (s : State) : Answer :=
  enter .any s fun s => .next (giveResult s.env.agent (.byte s.sess.apCount) s)

/-- AP_INFO_TAKE (R248): the entry, and the slot empty. -/
def execApInfoTake (s : State) : Answer :=
  enter .caller s fun s => .next (giveResult s.env.agent (.apInfo s.sess.apSlot) { s with sess.apSlot := none })

end Sys2Proof.Machine
end

