-- ==== Sys2Proof/Machine/RxHandlers.lean ====
section
/-! DEFINITION. The receive handlers (43_rx_handlers): what a completed frame of each type does. -/

namespace Sys2Proof.Machine

open Sys2Proof

/-- DEVICE_INFO with the supported version: `MAC <- payload[0..5]` (R191). -/
def handleDeviceInfo (payload : List Byte) (s : State) : State :=
  casMode .waitInit .needAp { s with sess.mac := some (payload.take 6) }

/-- DEVICE_INFO with another version (R192). -/
def handleWrongVersion (s : State) : State := casMode .waitInit .wrongFirmware s

/-- SCAN_AP_COUNT (R193). -/
def handleApCount (payload : List Byte) (s : State) : State := { s with sess.apCount := payload.headD 0 }

/-- SCAN_AP_INFO (R194): kept only where its index is the most recent query's. -/
def handleApInfo (payload : List Byte) (s : State) : State :=
  if s.sess.lastQuery = some s.rx.rvar then { s with sess.apSlot := some (s.rx.rvar, payload) } else s

/-- PACKET with a payload (R196). -/
def handlePacket (s : State) : State := linkFlag s.rx.rvar (markActivity (deliverChain s))

/-- PACKET with no payload, the keepalive (R198). -/
def handleKeepalive (s : State) : State := linkFlag s.rx.rvar (markActivity s)

/-- The `not ok` branch of R190: the event, and a held chain goes back (R197, R202). -/
def handleBadChecksum (s : State) : State := releaseChain (emit (.crcMismatch s.rx.rtype) s)

/-- `Handle(t, ok, payload)` (R190). No other type reaches it, because R162 discards them at header time. -/
def handle (t : Option MsgType) (ok : Bool) (payload : List Byte) (s : State) : State :=
  if ok then
    match t with
    | some .deviceInfo =>
      if s.rx.rvar = s.cfg.supportedVersion then handleDeviceInfo payload s else handleWrongVersion s
    | some .scanApCount => handleApCount payload s
    | some .scanApInfo => handleApInfo payload s
    | some .packet => if s.rx.rsize = 0 then handleKeepalive s else handlePacket s
    | _ => s
  else handleBadChecksum s

end Sys2Proof.Machine
end

