-- ==== Sys2Proof/Machine/RxParser.lean ====
section
/-! DEFINITION. The receive parser (42_rx_parser): RX_BYTE in each parser state, and RX_FEED. -/

namespace Sys2Proof.Machine

open Sys2Proof

/-! ## Helpers (R166, R167, 40_codec R114) -/

/-- `EndFrame()` on the parser's registers (R166). -/
def parserEnd (p : Parser) : Parser :=
  { p with pstate := .seekingIntron, ipos := 0, hpos := 0, fpos := 0, remain := 0, curFrag := 0, curOff := 0 }

/-- `EndFrame()` (R166). -/
def endFrame (s : State) : State := { s with rx := parserEnd s.rx }

/-- `StartDiscard(n)` (R166). -/
def startDiscard (n : U16) (s : State) : State :=
  if n = 0 then endFrame s else { s with rx.remain := n, rx.pstate := .discard }

/-- The payload of the completed frame (R167). -/
def dispatchPayload (p : Parser) : List Byte :=
  match p.pstate with
  | .checksumOnly => p.fbuf.take p.rsize.toNat
  | .payloadStreaming => chainBytes (p.chain.getD [])
  | _ => []

/-- `CheckFrame(payload)` (40_codec R114): over the intron and header bytes as received. -/
def checkFrame (cfg : Config) (p : Parser) (payload : List Byte) : Bool :=
  frameCrc cfg.crc p.ibuf (p.hbuf.take 4) payload == p.rcrc

/-- `Dispatch()` (R167). -/
def dispatch (s : State) : State :=
  handle (typeOf s.cfg.typeCode s.rx.rtype) (checkFrame s.cfg s.rx (dispatchPayload s.rx)) (dispatchPayload s.rx) s

/-! ## The header (R161, R162) -/

/-- The decoded header registers, from the header and checksum bytes (R162, 10_state R33). -/
def decodeHeader (p : Parser) : Parser :=
  { p with
    rtype := p.hbuf.getD 0 0
    rvar := p.hbuf.getD 1 0
    rsize := unbe16 (p.hbuf.getD 2 0) (p.hbuf.getD 3 0)
    rcrc := unbe32 (p.hbuf.getD 4 0) (p.hbuf.getD 5 0) (p.hbuf.getD 6 0) (p.hbuf.getD 7 0) }

/-- The answer of `Alloc`: streaming into the fresh chain, or the silent discard (R162, R199). -/
def openChain (answer : Option (List Nat)) (s : State) : State :=
  match answer with
  | none => startDiscard s.rx.rsize s
  | some lens =>
    { s with rx := { s.rx with chain := some (freshChain lens), curFrag := 0, curOff := 0
                               remain := s.rx.rsize, pstate := .payloadStreaming } }

/-- A PACKET header with a payload: the request to the collaborator, within the step (R162). -/
def packetHeader (s : State) : State :=
  openChain (drawAlloc s.rx.rsize.toNat s.env.draws).1
    { s with env.draws := (drawAlloc s.rx.rsize.toNat s.env.draws).2 }

/-- A fixed-payload header: the length check, then buffering or the discard (R162, R201). -/
def fixedHeader (len : Nat) (s : State) : State :=
  if s.rx.rsize.toNat = len then
    { s with rx := { s.rx with fpos := 0, remain := s.rx.rsize, pstate := .checksumOnly } }
  else startDiscard s.rx.rsize (emit (.lengthError s.rx.rtype s.rx.rsize) s)

/-- An INVALID header (R162, R195): the event always, then the fatal stop of a debug build, or the discard. -/
def invalidHeader (s : State) : State :=
  if s.cfg.debugBuild then raiseFatal .invalidMessage (emit (.protocolError s.rx.rsize) s)
  else startDiscard s.rx.rsize (emit (.protocolError s.rx.rsize) s)

/-- The header of a type with no receive handler, or of no type (R162, R200). -/
def unknownHeader (s : State) : State := startDiscard s.rx.rsize (emit (.unknownType s.rx.rtype) s)

/-- The path a decoded header takes (the case of R162). -/
def headerPath (s : State) : State :=
  match typeOf s.cfg.typeCode s.rx.rtype with
  | some .invalid => invalidHeader s
  | some .packet => if s.rx.rsize = 0 then endFrame (dispatch s) else packetHeader s
  | some .deviceInfo => fixedHeader s.cfg.deviceInfoLen s
  | some .scanApCount => fixedHeader s.cfg.apCountLen s
  | some .scanApInfo => fixedHeader s.cfg.apInfoLen s
  | some .clientConfig => unknownHeader s
  | some .scanStart => unknownHeader s
  | some .scanStop => unknownHeader s
  | some .scanApGet => unknownHeader s
  | none => unknownHeader s

/-- `HeaderComplete()` (R162). -/
def headerComplete (s : State) : State := headerPath { s with rx := decodeHeader s.rx }

/-! ## RX_BYTE, per parser state -/

/-- `if SKIPPED > 0 then emit(OUT_OF_SYNC(SKIPPED)); SKIPPED <- 0` (R160, 60_exceptions R262). -/
def reportSkipped (s : State) : State :=
  if s.rx.skipped = 0 then s else emit (.outOfSync s.rx.skipped) { s with rx.skipped := 0 }

/-- The move to HEADER when the intron is complete (R160). -/
def beginHeader (s : State) : State := { s with rx := { s.rx with ipos := 0, hpos := 0, pstate := .header } }

/-- A matched intron byte (R160). -/
def matchByte (b : Byte) (p : Parser) : Parser := { p with ibuf := p.ibuf.set p.ipos b, ipos := p.ipos + 1 }

/-- A mismatch whose byte begins a new match (R160). -/
def restartByte (b : Byte) (p : Parser) : Parser :=
  { p with skipped := p.skipped + p.ipos, ibuf := p.ibuf.set 0 b, ipos := 1 }

/-- A mismatch whose byte is given up as well (R160). -/
def skipByte (p : Parser) : Parser := { p with skipped := p.skipped + p.ipos + 1, ipos := 0 }

/-- RX_BYTE in SEEKING_INTRON (R160). -/
def seekByte (b : Byte) (s : State) : State :=
  if s.sess.intron[s.rx.ipos]? = some b then
    if s.rx.ipos + 1 = s.cfg.intronLen then beginHeader (reportSkipped { s with rx := matchByte b s.rx })
    else { s with rx := matchByte b s.rx }
  else if s.sess.intron[0]? = some b then { s with rx := restartByte b s.rx }
  else { s with rx := skipByte s.rx }

/-- One header or checksum byte (R161). -/
def collectByte (b : Byte) (p : Parser) : Parser := { p with hbuf := p.hbuf.set p.hpos b, hpos := p.hpos + 1 }

/-- RX_BYTE in HEADER (R161). -/
def headerByte (b : Byte) (s : State) : State :=
  if s.rx.hpos + 1 = 8 then headerComplete { s with rx := { collectByte b s.rx with hpos := 0 } }
  else { s with rx := collectByte b s.rx }

/-- `if REMAIN = 0 then Dispatch(); EndFrame()` (R163, R164). -/
def finishPayload (s : State) : State := if s.rx.remain = 0 then endFrame (dispatch s) else s

/-- `if REMAIN = 0 then EndFrame()` (R165). -/
def finishDiscard (s : State) : State := if s.rx.remain = 0 then endFrame s else s

/-- `REMAIN <- REMAIN − 1`. -/
def countByte (p : Parser) : Parser := { p with remain := p.remain - 1 }

/-- One byte of a fixed payload (R163). -/
def bufferPut (b : Byte) (p : Parser) : Parser := { p with fbuf := p.fbuf.set p.fpos b, fpos := p.fpos + 1 }

/-- RX_BYTE in CHECKSUM_ONLY (R163). -/
def bufferByte (b : Byte) (s : State) : State := finishPayload { s with rx := countByte (bufferPut b s.rx) }

/-- RX_BYTE in PAYLOAD_STREAMING (R164). -/
def streamByte (b : Byte) (s : State) : State := finishPayload { s with rx := countByte (chainWrite b s.rx) }

/-- RX_BYTE in DISCARD (R165). -/
def discardByte (s : State) : State := finishDiscard { s with rx := countByte s.rx }

/-- The effect of RX_BYTE (R160 to R165): one atomic step, with any dispatch within it. -/
def rxByte (b : Byte) (s : State) : State :=
  match s.rx.pstate with
  | .seekingIntron => seekByte b s
  | .header => headerByte b s
  | .checksumOnly => bufferByte b s
  | .payloadStreaming => streamByte b s
  | .discard => discardByte s

/-- What bytes fed one after the other come to when no other agent steps between them; after a fatal stop the rest is
never fed (R170). No step does this: R67 makes nothing larger than one RX_BYTE atomic. -/
def rxAll : List Byte → State → State
  | [], s => s
  | b :: bs, s => if s.halted.isSome then s else rxAll bs (rxByte b s)

/-! ## The operations RX_BYTE and RX_FEED -/

/-- RX_BYTE(b) (R160 to R165). -/
def execRxByte (b : Byte) (s : State) : Answer := enter .poller s fun s => .next (rxByte b s)

/-- One iteration of RX_FEED's loop (R170): a fatal stop ends the step before the loop goes on. -/
def feedStep (s : State) : State :=
  match s.tasks.feed with
  | [] => s
  | b :: bs => unlessHalted (fun s1 => { s1 with tasks.feed := bs }) (rxByte b s)

/-- The poller begins to feed bytes: the first in this step, the others at its next steps, one each, so that other agents
may step between them (R170, 20_memory R67; log entry 11). -/
def beginFeed (bytes : List Byte) (s : State) : Answer :=
  enter .poller s fun s => .next (feedStep { s with tasks.feed := bytes })

/-- RX_FEED(s) (R170). -/
def execRxFeed (bytes : List Byte) (s : State) : Answer := beginFeed bytes s

end Sys2Proof.Machine
end

