-- ==== Sys2Proof/Machine/DmaRing.lean ====
section
/-! DEFINITION. The circular DMA ring and its reader (44_dma_reader): DMA_WRITE, UART_ERROR, and POLL in its steps P0,
P1 and P2. -/

namespace Sys2Proof.Machine

open Sys2Proof

/-- DMA_WRITE(b) (R220). The writer never looks at RPOS. -/
def execDmaWrite (b : Byte) (s : State) : Answer :=
  enter .rxhw s fun s =>
    if s.ring.wpos < s.cfg.ringSize then
      .next { s with ring.mem := s.ring.mem.write s.ring.wpos b
                     ring.wpos := (s.ring.wpos + 1) % s.cfg.ringSize }
    else .fault (.outsideRing s.ring.wpos)

/-- UART_ERROR (R223). With the interrupt disabled RXHW has no such step (log entry 18). -/
def execUartError (s : State) : Answer :=
  enter .rxhw s fun s => if s.ring.irqEn then .next (uartErrorSeen s) else .next s

/-- The count of bytes between the read offset and a write position: `(w − RPOS) mod RING_SIZE` (R222). -/
def ringCount (size rpos w : Nat) : Nat := (w + size - rpos % size) % size

/-- P0 (R222): the recovery, or the snapshot of WPOS. -/
def pollBegin (s : State) : State :=
  if s.ring.errPending then giveResult .poller (.count 0) (recover s)
  else
    { s with poll := some { w := s.ring.wpos, j := 0, n := ringCount s.cfg.ringSize s.ring.rpos s.ring.wpos } }

/-- POLL (R222): its step P0; the poller takes P1 and P2 step by step. -/
def execPoll (s : State) : Answer := enter .poller s fun s => .next (pollBegin s)

/-- The ring byte that P1 feeds at index j: `RING[(RPOS + j) mod RING_SIZE]` (R222). -/
def pollByteAt (s : State) (j : Nat) : Byte := ringRead s.ring.mem ((s.ring.rpos + j) % s.cfg.ringSize)

/-- P1 (R222): one byte; a fatal stop ends the step before the index moves. -/
def pollFeed (c : PollCtx) (s : State) : State :=
  unlessHalted (fun s1 => { s1 with poll := some { c with j := c.j + 1 } }) (rxByte (pollByteAt s c.j) s)

/-- P2 (R222): the read offset moves, POLL returns its count. -/
def pollEnd (c : PollCtx) (s : State) : State :=
  giveResult .poller (.count c.n) { s with ring.rpos := c.w, poll := none }

/-- The next step of what the poller has in progress: a POLL's P1 or P2, or an RX_FEED's next byte. -/
def pollerStep (s : State) : State :=
  match s.poll with
  | some c => if c.j < c.n then pollFeed c s else pollEnd c s
  | none => feedStep s

end Sys2Proof.Machine
end

