-- ==== Sys2Proof/Machine/Frames.lean ====
section
/-! DEFINITION. The nine frame types as instructions: a frame of the type arrives at the receive parser, byte by byte
(30_encoding R93 `FRAME`, R94 `FEED`; log entry 8). What the parser and the handlers do with the bytes is 42_rx_parser and
43_rx_handlers. -/

namespace Sys2Proof.Machine

open Sys2Proof

/-- A frame of a type arrives: `FEED` of its wire bytes (R80, R94), each byte its own step (20_memory R67). -/
def receiveFrame (t : MsgType) (f : Frame) (s : State) : Answer :=
  beginFeed (frameBytes f.intron (typeCodeOf s.cfg.typeCode t) f.var f.checksum f.payload) s

/-- DEVICE_INFO (43_rx_handlers R191, R192, R201, R202). -/
def execDeviceInfo (f : Frame) (s : State) : Answer := receiveFrame .deviceInfo f s

/-- CLIENTCONFIG, received (R200). -/
def execClientConfig (f : Frame) (s : State) : Answer := receiveFrame .clientConfig f s

/-- PACKET (R196 to R199, R203). -/
def execPacket (f : Frame) (s : State) : Answer := receiveFrame .packet f s

/-- SCAN_START, received (R200). -/
def execScanStart (f : Frame) (s : State) : Answer := receiveFrame .scanStart f s

/-- SCAN_STOP, received (R200). -/
def execScanStop (f : Frame) (s : State) : Answer := receiveFrame .scanStop f s

/-- SCAN_AP_GET, received (R200). -/
def execScanApGet (f : Frame) (s : State) : Answer := receiveFrame .scanApGet f s

/-- SCAN_AP_COUNT (R193, R201, R202). -/
def execScanApCount (f : Frame) (s : State) : Answer := receiveFrame .scanApCount f s

/-- SCAN_AP_INFO (R194, R201, R202). -/
def execScanApInfo (f : Frame) (s : State) : Answer := receiveFrame .scanApInfo f s

/-- INVALID (R195). -/
def execInvalid (f : Frame) (s : State) : Answer := receiveFrame .invalid f s

end Sys2Proof.Machine
end

