-- ==== Sys2Proof/Machine/Transmit.lean ====
section
/-! DEFINITION. The transmit framer (41_transmit): SEND and JOIN_AP in their labelled steps, and TX_DONE. Each labelled
step (S0, S1, S2, S3, J1, J3 and the delay) is one step of the caller (log entry 11). A step whose `wait` does not hold
changes nothing (log entry 12). -/

namespace Sys2Proof.Machine

open Sys2Proof

/-! ## The steps of a caller -/

/-- The step after the lock is taken: S1 of a SEND, J1 of a JOIN_AP. -/
def stageAfterLock : TxJob → TxStage
  | .send _ _ _ => .build
  | .join _ _ => .prepare

/-- S0 (R130, R136): `wait(LOCK = none); LOCK <- CALLER(k)`, one atomic step. -/
def stepAcquire (k : Nat) (job : TxJob) (s : State) : State :=
  match s.tx.lock with
  | none => setCallerOp k (some (.tx job (stageAfterLock job))) { s with tx.lock := some k }
  | some _ => setCallerOp k (some (.tx job .acquire)) s

/-- `LOCK <- none; return OK` or `FAIL`. -/
def releaseLock (k : Nat) (ok : Bool) (s : State) : State :=
  giveResult (.caller k) (.sent ok) (setCallerOp k none { s with tx.lock := none })

/-- The end of steps S1 to S3 (R130, R135): a SEND frees the lock and returns, a JOIN_AP goes to J3 (R136, J2). -/
def endSend (k : Nat) (job : TxJob) (ok : Bool) (s : State) : State :=
  match job with
  | .send _ _ _ => releaseLock k ok s
  | .join _ _ => setCallerOp k (some (.tx job (.finish ok))) s

/-- J1 (R136): the length check, the fresh intron. -/
def stepPrepare (k : Nat) (ssid pass : List Byte) (s : State) : State :=
  if credentialsFit ssid pass then
    setCallerOp k (some (.tx (.join ssid pass) .build))
      { s with tx.pendingIntron := some (drawIntron s.cfg s.env.draws).1
               env.draws := (drawIntron s.cfg s.env.draws).2 }
  else releaseLock k false s

/-- The type byte a job frames: a JOIN_AP's is CLIENTCONFIG (R136, J2). -/
def jobType (cfg : Config) : TxJob → Byte
  | .send t _ _ => t
  | .join _ _ => cfg.typeCode.clientConfig

/-- The variable byte a job frames: a JOIN_AP's is 0x00 (R136, J2). -/
def jobVar : TxJob → Byte
  | .send _ v _ => v
  | .join _ _ => 0

/-- The fragments a job frames: a JOIN_AP's is the one payload of R137, with the fresh intron. -/
def jobFrags (pendingIntron : Option (List Byte)) : TxJob → List (List Byte)
  | .send _ _ frags => frags
  | .join ssid pass => [clientConfigPayload (pendingIntron.getD []) ssid pass]

/-- The chunks that S1 makes of a job, under the intron it reads (R130, R136). -/
def jobChunks (job : TxJob) (s : State) : List (List Byte) :=
  sendChunks s.cfg s.sess.intron (jobType s.cfg job) (jobVar job) (jobFrags s.tx.pendingIntron job)

/-- Query tracking (R131): before the first chunk starts, whether or not the send later succeeds. -/
def trackQuery (t v : Byte) (s : State) : State :=
  if t = s.cfg.typeCode.scanApGet then { s with sess.lastQuery := some v } else s

/-- `TXSEQ <- (chunks, k = 0, cur = none, status = running)` (R130, S1). -/
def openSequence (chunks : List (List Byte)) (s : State) : State :=
  { s with tx.seq := some { chunks := chunks, k := 0, cur := none, status := .running } }

/-- S1 (R130): the size check, the query tracking, the prelude with its checksum, the chunks. -/
def stepBuild (k : Nat) (job : TxJob) (s : State) : State :=
  if payloadFits (jobFrags s.tx.pendingIntron job) then
    setCallerOp k (some (.tx job .start))
      (openSequence (jobChunks job s) (trackQuery (jobType s.cfg job) (jobVar job) s))
  else endSend k job false s

/-- The answer of the hardware start primitive (R132): the chunk is in flight, or the rollback. -/
def chunkAnswer (started : Bool) (k : Nat) (job : TxJob) (q : TxSeq) (s : State) : State :=
  if started then setCallerOp k (some (.tx job .resume)) (chunkStarted q (q.chunks.getD q.k []) s)
  else endSend k job false { s with tx.pending := false, tx.seq := none }

/-- S2 (R132): the start of chunk `TXSEQ.k`. -/
def stepStart (k : Nat) (job : TxJob) (s : State) : State :=
  match s.tx.seq with
  | none => s
  | some q =>
    if s.tx.pending then raiseFatal .doubleSignal s
    else chunkAnswer (drawStart s.env.draws).1 k job q { s with env.draws := (drawStart s.env.draws).2 }

/-- S3 (R130, R135): `wait(TX_PENDING = 0 ∧ TXSEQ.status ≠ running)`, then the next chunk or the end. The delay of R133
stands before chunk 2 and every later one. -/
def stepResume (k : Nat) (job : TxJob) (s : State) : State :=
  match s.tx.seq with
  | none => s
  | some q =>
    if s.tx.pending then s
    else
      match q.status with
      | .running => s
      | .fail => endSend k job false { s with tx.seq := none }
      | .ok =>
        if q.k + 1 = q.chunks.length then endSend k job true { s with tx.seq := none }
        else
          setCallerOp k (some (.tx job (if 2 ≤ q.k + 1 then .delay else .start)))
            { s with tx.seq := some { q with k := q.k + 1 } }

/-- `INTRON <- PENDING_INTRON; CAS(MODE, NEED_AP, CONNECTING_AP)` (R136, J3). -/
def commitIntron (s : State) : State :=
  casMode .needAp .connectingAp { s with sess.intron := s.tx.pendingIntron.getD s.sess.intron }

/-- `PENDING_INTRON <- none` (R136, J3). -/
def dropPending (s : State) : State := { s with tx.pendingIntron := none }

/-- J3 (R136): on OK the fresh intron is installed and NEED_AP becomes CONNECTING_AP. -/
def stepFinish (k : Nat) (ok : Bool) (s : State) : State :=
  releaseLock k ok (dropPending (if ok then commitIntron s else s))

/-- The next step of a SEND or JOIN_AP in progress. -/
def stepTx (k : Nat) (job : TxJob) (stage : TxStage) (s : State) : State :=
  match stage with
  | .acquire => stepAcquire k job s
  | .prepare =>
    match job with
    | .join ssid pass => stepPrepare k ssid pass s
    | .send _ _ _ => s
  | .build => stepBuild k job s
  | .start => stepStart k job s
  | .resume => stepResume k job s
  | .delay => setCallerOp k (some (.tx job .start)) s
  | .finish ok => stepFinish k ok s

/-! ## The operations -/

/-- SEND (R130): its step S0. -/
def execSend (t v : Byte) (frags : List (List Byte)) (s : State) : Answer :=
  enter .caller s fun s => .next (stepAcquire (callerIndex s) (.send t v frags) s)

/-- JOIN_AP (R136): its step S0. -/
def execJoinAp (ssid pass : List Byte) (s : State) : Answer :=
  enter .caller s fun s => .next (stepAcquire (callerIndex s) (.join ssid pass) s)

/-- The bytes of the chunk in flight. -/
def chunkInFlight (s : State) : List Byte := (s.tx.seq.bind (·.cur)).getD []

/-- A failed transfer leaves a drawn part of the chunk, from its front, on the wire (R134). -/
def partialChunk (s : State) : State :=
  wireOut ((chunkInFlight s).take (drawSent (chunkInFlight s).length s.env.draws).1)
    { s with env.draws := (drawSent (chunkInFlight s).length s.env.draws).2 }

/-- The effect of TX_DONE (R134). -/
def txDone (st : DoneStatus) (s : State) : State :=
  if s.tx.pending then
    match st with
    | .ok => chunkDone .ok (wireOut (chunkInFlight s) s)
    | .fail => chunkDone .fail (partialChunk s)
  else raiseFatal .doubleSignal s

/-- TX_DONE (R134). -/
def execTxDone (st : DoneStatus) (s : State) : Answer := enter .txhw s fun s => .next (txDone st s)

end Sys2Proof.Machine
end

