-- ==== Sys2Proof/Machine/Dispatch.lean ====
section
/-! DEFINITION. The dispatch: one arm per instruction, each a call of its meaning. -/

namespace Sys2Proof.Machine

open Sys2Proof

/-- What an instruction does, begun by the agent of the current step. -/
def exec (i : Instr) (s : State) : Host.Outcome State Fault Refusal :=
  match i with
  | .deviceInfo f => Sys2Proof.Machine.execDeviceInfo f s
  | .clientConfig f => Sys2Proof.Machine.execClientConfig f s
  | .packet f => Sys2Proof.Machine.execPacket f s
  | .scanStart f => Sys2Proof.Machine.execScanStart f s
  | .scanStop f => Sys2Proof.Machine.execScanStop f s
  | .scanApGet f => Sys2Proof.Machine.execScanApGet f s
  | .scanApCount f => Sys2Proof.Machine.execScanApCount f s
  | .scanApInfo f => Sys2Proof.Machine.execScanApInfo f s
  | .invalid f => Sys2Proof.Machine.execInvalid f s
  | .init => Sys2Proof.Machine.execInit s
  | .reset => Sys2Proof.Machine.execReset s
  | .poll => Sys2Proof.Machine.execPoll s
  | .rxByte b => Sys2Proof.Machine.execRxByte b s
  | .rxFeed bytes => Sys2Proof.Machine.execRxFeed bytes s
  | .send t v frags => Sys2Proof.Machine.execSend t v frags s
  | .joinAp ssid pass => Sys2Proof.Machine.execJoinAp ssid pass s
  | .modeCas old new => Sys2Proof.Machine.execModeCas old new s
  | .modeRead => Sys2Proof.Machine.execModeRead s
  | .linkUpRead => Sys2Proof.Machine.execLinkUpRead s
  | .tickRead => Sys2Proof.Machine.execTickRead s
  | .macRead => Sys2Proof.Machine.execMacRead s
  | .apCountRead => Sys2Proof.Machine.execApCountRead s
  | .apInfoTake => Sys2Proof.Machine.execApInfoTake s
  | .dmaWrite b => Sys2Proof.Machine.execDmaWrite b s
  | .uartError => Sys2Proof.Machine.execUartError s
  | .txDone st => Sys2Proof.Machine.execTxDone st s

end Sys2Proof.Machine
end

