-- ==== Sys2Proof/WellFormed.lean ====
section
/-! DEFINITION. Which terms of Instr are instructions of the configuration: a frame's intron has `N` bytes and its
payload fits the 16-bit size field (30_encoding R80, 00_scope R8). Every operand value of an operation is a legal
operand form (30_encoding R91), so an operation needs no check. -/

namespace Sys2Proof

/-- The checks on a frame: `N` intron bytes (30_encoding R80) and at most 65535 payload bytes (00_scope R8). -/
def Frame.wf (cfg : Config) (f : Frame) : Bool :=
  decide (f.intron.length = cfg.intronLen) && decide (f.payload.length ≤ 65535)

/-- Well-formedness of an instruction under a configuration. -/
def Instr.wf (cfg : Config) : Instr → Bool
  | .deviceInfo f => f.wf cfg
  | .clientConfig f => f.wf cfg
  | .packet f => f.wf cfg
  | .scanStart f => f.wf cfg
  | .scanStop f => f.wf cfg
  | .scanApGet f => f.wf cfg
  | .scanApCount f => f.wf cfg
  | .scanApInfo f => f.wf cfg
  | .invalid f => f.wf cfg
  | .init => true
  | .reset => true
  | .poll => true
  | .rxByte _ => true
  | .rxFeed _ => true
  | .send _ _ _ => true
  | .joinAp _ _ => true
  | .modeCas _ _ => true
  | .modeRead => true
  | .linkUpRead => true
  | .tickRead => true
  | .macRead => true
  | .apCountRead => true
  | .apInfoTake => true
  | .dmaWrite _ => true
  | .uartError => true
  | .txDone _ => true

end Sys2Proof
end

