-- ==== Sys2Proof/Decode.lean ====
section
/-! DEFINITION. The decoder, total on any bytes and refusing by name, and the encoder. A frame's encoding is the wire
format of 30_encoding R80 to R84. An operation's is its identifier (30_encoding R90) and then its operands; the spec
gives operands no binary form (R92), so theirs is a DESIGN CHOICE, log entry 10:
a byte is itself; TX_DONE's status is 00 for ok and 01 for fail; a byte sequence is `01 b` for each byte b and then 00;
SEND's fragments are, for each, 02 and then `01 b` for each byte b, and then 00. -/

namespace Sys2Proof

open Sys2Proof.Machine

/-! ## Operand decoders -/

/-- A byte sequence, and the bytes after it. -/
def takeSeq : List Byte → Except DecodeError (List Byte × List Byte)
  | [] => .error .truncatedOperand
  | m :: rest =>
    if m = 0 then .ok ([], rest)
    else if m = 1 then
      match rest with
      | [] => .error .truncatedOperand
      | b :: r =>
        match takeSeq r with
        | .ok (s, t) => .ok (b :: s, t)
        | .error e => .error e
    else .error .badOperand

/-- The fragments of a SEND: the bytes of a fragment whose start mark has been read, the fragments after it, and the
bytes after them all. -/
def takeFragsTail : List Byte → Except DecodeError (List Byte × List (List Byte) × List Byte)
  | [] => .error .truncatedOperand
  | m :: rest =>
    if m = 0 then .ok ([], [], rest)
    else if m = 1 then
      match rest with
      | [] => .error .truncatedOperand
      | b :: r =>
        match takeFragsTail r with
        | .ok (cur, fs, t) => .ok (b :: cur, fs, t)
        | .error e => .error e
    else if m = 2 then
      match takeFragsTail rest with
      | .ok (cur, fs, t) => .ok ([], cur :: fs, t)
      | .error e => .error e
    else .error .badOperand

/-- The fragments of a SEND, and the bytes after them. No byte stands before the first fragment's start mark. -/
def takeFrags (bytes : List Byte) : Except DecodeError (List (List Byte) × List Byte) :=
  match takeFragsTail bytes with
  | .ok ([], fs, t) => .ok (fs, t)
  | .ok (_ :: _, _, _) => .error .badOperand
  | .error e => .error e

/-- One byte, and the bytes after it. -/
def takeByte : List Byte → Except DecodeError (Byte × List Byte)
  | [] => .error .truncatedOperand
  | b :: r => .ok (b, r)

/-- TX_DONE's status, and the bytes after it. -/
def takeStatus : List Byte → Except DecodeError (DoneStatus × List Byte)
  | [] => .error .truncatedOperand
  | b :: r => if b = 0 then .ok (.ok, r) else if b = 1 then .ok (.fail, r) else .error .badOperand

/-! ## The decoder -/

/-- An operation from its identifier and operands (30_encoding R90), and the bytes after it. -/
def decodeOp : List Byte → Except DecodeError (Instr × List Byte)
  | [] => .error .empty
  | id :: r =>
    match id.toNat with
    | 0x01 => .ok (.init, r)
    | 0x02 => .ok (.reset, r)
    | 0x03 => .ok (.poll, r)
    | 0x04 => do let (b, r) ← takeByte r; .ok (.rxByte b, r)
    | 0x05 => do let (s, r) ← takeSeq r; .ok (.rxFeed s, r)
    | 0x06 => do
        let (t, r) ← takeByte r
        let (v, r) ← takeByte r
        let (fs, r) ← takeFrags r
        .ok (.send t v fs, r)
    | 0x07 => do
        let (ssid, r) ← takeSeq r
        let (pass, r) ← takeSeq r
        .ok (.joinAp ssid pass, r)
    | 0x08 => do
        let (old, r) ← takeByte r
        let (new, r) ← takeByte r
        .ok (.modeCas old new, r)
    | 0x09 => .ok (.modeRead, r)
    | 0x0A => .ok (.linkUpRead, r)
    | 0x0B => .ok (.tickRead, r)
    | 0x0C => .ok (.macRead, r)
    | 0x0D => .ok (.apCountRead, r)
    | 0x0E => .ok (.apInfoTake, r)
    | 0x10 => do let (b, r) ← takeByte r; .ok (.dmaWrite b, r)
    | 0x11 => .ok (.uartError, r)
    | 0x12 => do let (st, r) ← takeStatus r; .ok (.txDone st, r)
    | _ => .error (.unlistedOperation id)

/-- The instruction a frame of a type is. -/
def frameInstr (t : MsgType) (f : Frame) : Instr :=
  match t with
  | .deviceInfo => .deviceInfo f
  | .clientConfig => .clientConfig f
  | .packet => .packet f
  | .scanStart => .scanStart f
  | .scanStop => .scanStop f
  | .scanApGet => .scanApGet f
  | .scanApCount => .scanApCount f
  | .scanApInfo => .scanApInfo f
  | .invalid => .invalid f

/-- The fields behind the intron (30_encoding R82): type, variable byte, size, checksum, and `size` payload bytes. -/
def decodeFields (cfg : Config) (intron : List Byte) : List Byte → Except DecodeError (Instr × List Byte)
  | t :: v :: s1 :: s0 :: c3 :: c2 :: c1 :: c0 :: r =>
    let size := (unbe16 s1 s0).toNat
    if r.length < size then .error .truncatedFrame
    else
      match typeOf cfg.typeCode t with
      | none => .error (.unlistedType t)
      | some ty =>
        .ok (frameInstr ty { intron := intron, var := v, checksum := unbe32 c3 c2 c1 c0, payload := r.take size }, r.drop size)
  | _ => .error .truncatedFrame

/-- A frame from its wire bytes (30_encoding R80), and the bytes after it. -/
def decodeFrame (cfg : Config) (bytes : List Byte) : Except DecodeError (Instr × List Byte) :=
  if bytes.length < cfg.intronLen then .error .truncatedFrame
  else decodeFields cfg (bytes.take cfg.intronLen) (bytes.drop cfg.intronLen)

/-- The decoder: the instruction at the front of the bytes, and the bytes after it. -/
def decode (cfg : Config) : Format → List Byte → Except DecodeError (Instr × List Byte)
  | .op, bytes => decodeOp bytes
  | .frame, bytes => decodeFrame cfg bytes

/-! ## The encoder -/

/-- The marked bytes of a sequence or a fragment, without the end mark. -/
def markBytes : List Byte → List Byte
  | [] => []
  | b :: r => 1 :: b :: markBytes r

/-- A byte sequence operand. -/
def putSeq (s : List Byte) : List Byte := markBytes s ++ [0]

/-- The fragments operand of a SEND. -/
def putFrags : List (List Byte) → List Byte
  | [] => [0]
  | f :: fs => 2 :: (markBytes f ++ putFrags fs)

/-- TX_DONE's status operand. -/
def putStatus : DoneStatus → Byte
  | .ok => 0
  | .fail => 1

/-- The wire bytes of a frame of a type (30_encoding R80). -/
def encodeFrame (cfg : Config) (t : MsgType) (f : Frame) : List Byte :=
  frameBytes f.intron (typeCodeOf cfg.typeCode t) f.var f.checksum f.payload

/-- Which of the two encodings an instruction has. -/
def Instr.format : Instr → Format
  | .deviceInfo _ => .frame
  | .clientConfig _ => .frame
  | .packet _ => .frame
  | .scanStart _ => .frame
  | .scanStop _ => .frame
  | .scanApGet _ => .frame
  | .scanApCount _ => .frame
  | .scanApInfo _ => .frame
  | .invalid _ => .frame
  | .init => .op
  | .reset => .op
  | .poll => .op
  | .rxByte _ => .op
  | .rxFeed _ => .op
  | .send _ _ _ => .op
  | .joinAp _ _ => .op
  | .modeCas _ _ => .op
  | .modeRead => .op
  | .linkUpRead => .op
  | .tickRead => .op
  | .macRead => .op
  | .apCountRead => .op
  | .apInfoTake => .op
  | .dmaWrite _ => .op
  | .uartError => .op
  | .txDone _ => .op

/-- The bytes of an instruction. -/
def encode (cfg : Config) : Instr → List Byte
  | .deviceInfo f => encodeFrame cfg .deviceInfo f
  | .clientConfig f => encodeFrame cfg .clientConfig f
  | .packet f => encodeFrame cfg .packet f
  | .scanStart f => encodeFrame cfg .scanStart f
  | .scanStop f => encodeFrame cfg .scanStop f
  | .scanApGet f => encodeFrame cfg .scanApGet f
  | .scanApCount f => encodeFrame cfg .scanApCount f
  | .scanApInfo f => encodeFrame cfg .scanApInfo f
  | .invalid f => encodeFrame cfg .invalid f
  | .init => [0x01]
  | .reset => [0x02]
  | .poll => [0x03]
  | .rxByte b => [0x04, b]
  | .rxFeed s => 0x05 :: putSeq s
  | .send t v fs => 0x06 :: t :: v :: putFrags fs
  | .joinAp ssid pass => 0x07 :: (putSeq ssid ++ putSeq pass)
  | .modeCas old new => [0x08, old, new]
  | .modeRead => [0x09]
  | .linkUpRead => [0x0A]
  | .tickRead => [0x0B]
  | .macRead => [0x0C]
  | .apCountRead => [0x0D]
  | .apInfoTake => [0x0E]
  | .dmaWrite b => [0x10, b]
  | .uartError => [0x11]
  | .txDone st => [0x12, putStatus st]

/-! ## The opcode table's words (the host's interface) -/

/-- The table's bits as bytes: bit 0 is the least significant bit of the first byte. -/
def wordBytes (nbits w : Nat) : List Byte :=
  (List.range (nbits / 8)).map fun i => BitVec.ofNat 8 (w >>> (8 * i))

/-- Zero bytes for every operand the table gives no bits: no operand of zeros is longer. -/
def zeroOperands : List Byte := List.replicate 16 0

/-- The bytes a table word stands for in each encoding. In the wire format the table's bits are those of byte `N`
(opcode_table.json, source_fields), so `N` zero bytes stand before them. -/
def tableBytes (cfg : Config) (nbits w : Nat) : Format → List Byte
  | .op => wordBytes nbits w ++ zeroOperands
  | .frame => List.replicate cfg.intronLen 0 ++ wordBytes nbits w ++ zeroOperands

/-- In which encoding a table word is read: an operation where its identifier is listed, else a frame. The codes 01
to 08 are both (30_encoding R84, R90), and the word alone cannot say which: log entry 9. -/
def tableFormat (cfg : Config) (nbits w : Nat) : Format :=
  match decode cfg .op (tableBytes cfg nbits w .op) with
  | .ok _ => .op
  | .error _ => .frame

/-- The instruction the decoder reads from a table word, under the default parameters. -/
def decodeTableWord (nbits w : Nat) : Option Instr :=
  let fmt := tableFormat vectorConfig nbits w
  match decode vectorConfig fmt (tableBytes vectorConfig nbits w fmt) with
  | .ok (i, _) => some i
  | .error _ => none

end Sys2Proof
end

