-- ==== Sys2Proof/Machine/Fetch.lean ====
section
/-! DEFINITION. The helpers of the step and of the host's interface: taking the next element of the schedule, what bytes
do that are no instruction, and the agent that issues an instruction (30_encoding R90, agent column). -/

namespace Sys2Proof.Machine

open Sys2Proof

/-- The schedule's next element is taken, and its agent is the agent of the step (00_scope R14; log entry 1). -/
def takeInput (inp : Input) (rest : List Input) (s : State) : State :=
  { s with env.inputs := rest, env.agent := inp.agent }

/-- What bytes do that decode to no instruction. The bytes of an operation that R90 does not list are refused (93 U2).
Bytes of the wire format are on the receive line, whatever they are: the parser is fed them, which discards a frame of an
unlisted type with its event (30_encoding R87, 93 U18, 43_rx_handlers R200), and takes a truncated frame as far as it goes
(30_encoding R93 `BYTES`; log entry 21). -/
def undecoded (fmt : Format) (bytes : List Byte) (e : DecodeError) (s : State) : Answer :=
  match fmt with
  | .op => .refused (.notAnInstruction e)
  | .frame => beginFeed bytes s

/-- The agent column of 30_encoding R90; a frame is received by the poller (42_rx_parser, opening). -/
def agentColumn : Instr → AgentClass
  | .deviceInfo _ => .poller
  | .clientConfig _ => .poller
  | .packet _ => .poller
  | .scanStart _ => .poller
  | .scanStop _ => .poller
  | .scanApGet _ => .poller
  | .scanApCount _ => .poller
  | .scanApInfo _ => .poller
  | .invalid _ => .poller
  | .init => .caller
  | .reset => .caller
  | .poll => .poller
  | .rxByte _ => .poller
  | .rxFeed _ => .poller
  | .send _ _ _ => .caller
  | .joinAp _ _ => .caller
  | .modeCas _ _ => .caller
  | .modeRead => .any
  | .linkUpRead => .any
  | .tickRead => .poller
  | .macRead => .any
  | .apCountRead => .any
  | .apInfoTake => .caller
  | .dmaWrite _ => .rxhw
  | .uartError => .rxhw
  | .txDone _ => .txhw

/-- One agent of a class. -/
def someAgentOf : AgentClass → Agent
  | .caller => .caller 0
  | .poller => .poller
  | .rxhw => .rxhw
  | .txhw => .txhw
  | .any => .caller 0

/-- The agent that issues bytes: one that the row of the instruction they are names. -/
def issuerOf (cfg : Config) (fmt : Format) (bytes : List Byte) : Agent :=
  match decode cfg fmt bytes with
  | .ok (i, _) => someAgentOf (agentColumn i)
  | .error _ =>
    match fmt with
    | .op => .caller 0
    | .frame => .poller

/-- The schedule element that issues a table word. -/
def wordInput (cfg : Config) (nbits w : Nat) : Input :=
  let fmt := tableFormat cfg nbits w
  let bytes := tableBytes cfg nbits w fmt
  { agent := issuerOf cfg fmt bytes, act := .issue fmt bytes }

end Sys2Proof.Machine
end

