-- ==== Sys2Proof/Machine/Resume.lean ====
section
/-! DEFINITION. The continuation steps: the next step of the operation an agent has in progress (00_scope R14). An agent
with nothing in progress has nothing to do and nothing changes (60_exceptions R281). -/

namespace Sys2Proof.Machine

open Sys2Proof

/-- The next step of what `CALLER(k)` has in progress. -/
def callerStep (k : Nat) (op : CallerOp) (s : State) : State :=
  match op with
  | .initWait => if initEnabled s then initNow (setCallerOp k none s) else s
  | .resetWait => if resetEnabled s then resetNow (setCallerOp k none s) else s
  | .tx job stage => stepTx k job stage s

/-- Whether an operation may go on while INITED = 0: only an INIT (60_exceptions R270). -/
def mayContinue (s : State) (op : CallerOp) : Bool := s.inited || op == .initWait

/-- The step of an agent that is scheduled to go on. -/
def resumeAgent (s : State) : Answer :=
  match s.halted with
  | some code => .fault (.halted code)
  | none =>
    match s.env.agent with
    | .caller k =>
      match callerOp s k with
      | none => .next s
      | some op => if mayContinue s op then .next (callerStep k op s) else .refused .notInitialised
    | .poller =>
      if agentBusy s then
        if s.inited then .next (pollerStep s) else .refused .notInitialised
      else .next s
    | .txhw => .next s
    | .rxhw => .next s
    | .alloc => .next s

end Sys2Proof.Machine
end

