-- ==== Sys2Proof/Machine/Step.lean ====
section
/-! DEFINITION. One step of the machine: the step of the agent that the schedule names next (00_scope R14, 20_memory
R70), and the host's way to schedule one instruction. -/

namespace Sys2Proof.Machine

open Sys2Proof

/-- One step. A halted block has none (60_exceptions R268). With nothing scheduled nothing changes (R281). Otherwise
the scheduled agent begins the instruction its bytes encode, or goes on with the operation it has in progress. -/
def step (s : State) : Host.Outcome State Fault Refusal :=
  match s.halted with
  | some code => .fault (.halted code)
  | none =>
    match s.env.inputs with
    | [] => .next s
    | inp :: rest =>
      match inp.act with
      | .resume => resumeAgent (takeInput inp rest s)
      | .issue fmt bytes =>
        match decode s.cfg fmt bytes with
        | .ok (i, _) => exec i (takeInput inp rest s)
        | .error e => undecoded fmt bytes e (takeInput inp rest s)

/-- The state with one instruction, given by its table word, at the front of the schedule, issued by an agent its row
names (log entries 1, 9). -/
def State.withFetchWord (s : State) (nbits w : Nat) : State :=
  { s with env.inputs := wordInput s.cfg nbits w :: s.env.inputs }

end Sys2Proof.Machine
end

