-- ==== Sys2Proof/Machine/Pseudo.lean ====
section
/-! DEFINITION. The pseudo-operations (30_encoding R94): each is its expansion. -/

namespace Sys2Proof.Machine

open Sys2Proof

/-- `KEEPALIVE`: `SEND(PACKET, 0x00)` with no fragments. -/
def keepalive (cfg : Config) : Instr := .send cfg.typeCode.packet 0 []

/-- `SCAN_START_CMD`: `SEND(SCAN_START, 0x00)` with no fragments. -/
def scanStartCmd (cfg : Config) : Instr := .send cfg.typeCode.scanStart 0 []

/-- `SCAN_STOP_CMD`: `SEND(SCAN_STOP, 0x00)` with no fragments. -/
def scanStopCmd (cfg : Config) : Instr := .send cfg.typeCode.scanStop 0 []

/-- `AP_QUERY(i)`: `SEND(SCAN_AP_GET, i)` with no fragments. -/
def apQuery (cfg : Config) (i : Byte) : Instr := .send cfg.typeCode.scanApGet i []

/-- `FEED(s)`: `RX_FEED(s)`. -/
def feed (bytes : List Byte) : Instr := .rxFeed bytes

end Sys2Proof.Machine
end

