-- ==== Sys2Proof/Safety.lean ====
section
/-! DEFINITION. What the spec says of every state after power-on: the ranges and relations of the registers (10_state),
as one invariant `Inv`; and the words the statements are made of. -/

namespace Sys2Proof.Machine

open Sys2Proof

/-! ## The writer lock's holder -/

/-- Whether a caller at this point of its operation holds the lock: from S0 until it returns (41_transmit R130). -/
def holdsLock : CallerOp → Bool
  | .initWait => false
  | .resetWait => false
  | .tx _ stage => stage != .acquire

/-- The job and stage of the lock's holder. -/
def lockHolder (s : State) : Option (TxJob × TxStage) :=
  match s.tx.lock with
  | none => none
  | some k =>
    match callerOp s k with
    | some (.tx job stage) => some (job, stage)
    | _ => none

/-- The stages during which TXSEQ is held: S2, S3 and the delay (10_state R45). -/
def sendsChunks : TxStage → Bool
  | .start => true
  | .resume => true
  | .delay => true
  | _ => false

/-- The job-and-stage pairs during which PENDING_INTRON is held: a JOIN_AP after J1 (41_transmit R136). -/
def holdsIntron : TxJob × TxStage → Bool
  | (.send _ _ _, _) => false
  | (.join _ _, .acquire) => false
  | (.join _ _, .prepare) => false
  | (.join _ _, _) => true

/-! ## The invariant, part by part -/

/-- A legal intron: `N` bytes of which the first two are `INTRON_FIXED` (10_state R24). -/
abbrev intronOk (cfg : Config) (i : List Byte) : Prop :=
  i.length = cfg.intronLen ∧ i.take 2 = [cfg.fixed0, cfg.fixed1]

/-- R24, R27, R29. -/
abbrev sessionOk (s : State) : Prop :=
  s.sess.intron.length = s.cfg.intronLen ∧
  (s.inited = true → intronOk s.cfg s.sess.intron) ∧
  (∀ m ∈ s.sess.mac, m.length = 6) ∧
  (∀ e ∈ s.sess.apSlot, e.2.length = s.cfg.apInfoLen)

/-- The writer cursor inside a chain of `RSIZE` bytes of which `REMAIN` are still to come (20_memory R64, R65). -/
abbrev cursorOk (p : Parser) (c : Chain) : Prop :=
  (∀ f ∈ c, f ≠ []) ∧ c.flatten.length = p.rsize.toNat ∧
  p.curFrag < c.length ∧ p.curOff < (c.getD p.curFrag []).length ∧
  (c.take p.curFrag).flatten.length + p.curOff + p.remain.toNat = p.rsize.toNat

/-- R31 to R36, and the chain ownership of 43_rx_handlers R197. -/
abbrev parserOk (cfg : Config) (p : Parser) : Prop :=
  p.ibuf.length = cfg.intronLen ∧ p.hbuf.length = 8 ∧ p.fbuf.length = fixedCap cfg ∧
  p.ipos < cfg.intronLen ∧ p.hpos < 8 ∧ p.fpos ≤ fixedCap cfg ∧
  (p.chain.isSome = true ↔ p.pstate = .payloadStreaming) ∧
  (p.pstate = .checksumOnly →
    (typeOf cfg.typeCode p.rtype).bind (fixedLen cfg) = some p.rsize.toNat ∧
    p.fpos + p.remain.toNat = p.rsize.toNat) ∧
  (p.pstate = .payloadStreaming → typeOf cfg.typeCode p.rtype = some .packet) ∧
  (∀ c ∈ p.chain, cursorOk p c) ∧
  (p.pstate = .checksumOnly ∨ p.pstate = .payloadStreaming ∨ p.pstate = .discard → p.remain ≠ 0)

/-- R38 to R42, R54. -/
abbrev ringOk (s : State) : Prop :=
  Memory.wf s.ring.mem ∧ (∀ c ∈ s.ring.mem, c.1 < s.cfg.ringSize) ∧
  s.ring.wpos < s.cfg.ringSize ∧ s.ring.rpos < s.cfg.ringSize ∧
  (s.inited = true → s.ring.irqEn = true) ∧
  (∀ c ∈ s.poll, c.j ≤ c.n ∧ c.w < s.cfg.ringSize ∧ c.n = ringCount s.cfg.ringSize s.ring.rpos c.w)

/-- R43 to R46: the lock has one holder, TXSEQ and PENDING_INTRON belong to it, and a completion is outstanding exactly
while its chunk is in flight. -/
abbrev txOk (s : State) : Prop :=
  s.tasks.callers.length = s.cfg.nCallers ∧
  (∀ k ∈ s.tx.lock, k < s.tasks.callers.length) ∧
  (∀ k, k < s.tasks.callers.length → ((callerOp s k).any holdsLock = true ↔ s.tx.lock = some k)) ∧
  (s.tx.seq.isSome = true ↔ (lockHolder s).any (fun h => sendsChunks h.2) = true) ∧
  (s.tx.pending = true → (lockHolder s).any (fun h => h.2 == .resume) = true) ∧
  (∀ q ∈ s.tx.seq, q.k < q.chunks.length) ∧
  (∀ q ∈ s.tx.seq, (lockHolder s).any (fun h => h.2 == .resume) = true →
    q.cur = q.chunks[q.k]? ∧ (s.tx.pending = true ↔ q.status = .running)) ∧
  (s.tx.pendingIntron.isSome = true ↔ (lockHolder s).any holdsIntron = true) ∧
  (∀ i ∈ s.tx.pendingIntron, intronOk s.cfg i)

/-- Before the first INIT nothing is in progress (60_exceptions R270). -/
abbrev quietBeforeInit (s : State) : Prop := s.inited = false → s.tx.lock = none ∧ s.poll = none

/-- The invariant of every state of a run from power-on. -/
abbrev Inv (s : State) : Prop :=
  configOk s.cfg ∧ sessionOk s ∧ parserOk s.cfg s.rx ∧ ringOk s ∧ txOk s ∧ quietBeforeInit s

/-! ## Frames for the receiver -/

/-- A frame is well formed for the receiver that holds an intron (30_encoding R95). -/
abbrev wellFormedFrame (cfg : Config) (intron bytes : List Byte) : Prop :=
  bytes.take cfg.intronLen = intron ∧
  bytes.length = cfg.intronLen + 8 +
    (unbe16 (bytes.getD (cfg.intronLen + 2) 0) (bytes.getD (cfg.intronLen + 3) 0)).toNat ∧
  unbe32 (bytes.getD (cfg.intronLen + 4) 0) (bytes.getD (cfg.intronLen + 5) 0)
      (bytes.getD (cfg.intronLen + 6) 0) (bytes.getD (cfg.intronLen + 7) 0) =
    crcFn cfg.crc (bytes.take (cfg.intronLen + 4) ++ bytes.drop (cfg.intronLen + 8))

/-- The parser stands before a frame's first byte: SEEKING_INTRON with no byte matched, its buffers of their sizes,
no chain held (10_state R30 to R36). -/
abbrev atFrameStart (s : State) : Prop :=
  configOk s.cfg ∧ s.rx.pstate = .seekingIntron ∧ s.rx.ipos = 0 ∧ s.rx.chain = none ∧
  s.rx.ibuf.length = s.cfg.intronLen ∧ s.rx.hbuf.length = 8 ∧ s.rx.fbuf.length = fixedCap s.cfg

/-- A frame that the receiver in this state can recognise: it carries the current intron. -/
abbrev recognisable (s : State) (f : Frame) : Prop :=
  f.wf s.cfg = true ∧ f.intron = s.sess.intron

/-- Whether a frame's checksum field is right for a type byte (40_codec R111, R114). -/
abbrev checksumRight (cfg : Config) (code : Byte) (f : Frame) : Prop :=
  f.checksum = frameCrc cfg.crc f.intron (headerBytes code f.var f.payload.length) f.payload

/-- The out-of-sync report that a completed intron makes (42_rx_parser R160). -/
def resyncEvents (skipped : Nat) : List Event := if skipped = 0 then [] else [.outOfSync skipped]

/-- The parser's registers after `EndFrame` (R166). -/
def parserIdle (p : Parser) : Parser :=
  { p with pstate := .seekingIntron, ipos := 0, hpos := 0, fpos := 0, remain := 0, curFrag := 0, curOff := 0 }

/-- The parser's registers after `StartDiscard(n)` (R166). -/
def parserDiscarding (n : U16) (p : Parser) : Parser :=
  if n = 0 then parserIdle p else { p with remain := n, pstate := .discard }

/-- The parser's registers once a recognised frame's header is decoded: the intron, header and checksum as received
(42_rx_parser R160 to R162). -/
def parserDecoded (code : Byte) (f : Frame) (p : Parser) : Parser :=
  { p with
    ibuf := f.intron, hbuf := headerBytes code f.var f.payload.length ++ be32 f.checksum
    rtype := code, rvar := f.var, rsize := BitVec.ofNat 16 f.payload.length, rcrc := f.checksum, skipped := 0 }

/-- The parser after a recognised frame has ended: its header decoded, and the counters of `EndFrame` (R166). -/
def parserAfter (code : Byte) (f : Frame) (p : Parser) : Parser := parserIdle (parserDecoded code f p)

/-- The parser after a recognised frame of a fixed-payload type: as `parserAfter`, with the payload in FBUF (R163). -/
def parserAfterFixed (code : Byte) (f : Frame) (p : Parser) : Parser :=
  { parserAfter code f p with fbuf := f.payload ++ p.fbuf.drop f.payload.length }

/-- The session after a valid PACKET with variable byte v (43_rx_handlers R196, R198, R203): activity seen, the
associated flag as the link flag says, and NEED_AP or CONNECTING_AP to RUNNING on link-up. -/
def sessionLinked (v : Byte) (q : Session) : Session :=
  { q with
    activity := true
    associated := decide (v ≠ 0)
    mode := if v ≠ 0 ∧ (q.mode = .needAp ∨ q.mode = .connectingAp) then .running else q.mode }

/-- The notification a valid PACKET makes: only when the associated flag changes (R203). -/
def linkNotes (v : Byte) (q : Session) : List LinkNote :=
  if v ≠ 0 ∧ q.associated = false then [.linkUp]
  else if v = 0 ∧ q.associated = true then [.linkDown]
  else []

/-! ## Sends -/

/-- How a send ends: a SEND frees the lock and returns its result (41_transmit R130); a JOIN_AP goes to J3 with it (R136,
J2). -/
def sendEnded (k : Nat) (job : TxJob) (ok : Bool) (s : State) : State :=
  match job with
  | .send _ _ _ =>
    { s with
      tx.lock := none
      tasks.callers := s.tasks.callers.set k none
      tasks.returns := s.tasks.returns ++ [(.caller k, .sent ok)] }
  | .join _ _ => { s with tasks.callers := s.tasks.callers.set k (some (.tx job (.finish ok))) }

/-- The step by which a send of these chunks fails at its chunk `q.k`, with p bytes of that chunk on the wire: it frees TXSEQ
from S2, where the hardware refused the start and nothing of the chunk was sent, or from S3 after a failed completion
(41_transmit R132, R135). -/
abbrev failsAtChunk (k : Nat) (job : TxJob) (chunks : List (List Byte)) (q : TxSeq) (p : Nat) (s : State) : Prop :=
  s.tx.seq = some q ∧ q.chunks = chunks ∧ q.k < chunks.length ∧ p ≤ (chunks.getD q.k []).length ∧
  (callerOp s k = some (.tx job .start) ∧ p = 0 ∨ callerOp s k = some (.tx job .resume) ∧ q.status = .fail) ∧
  ∃ t : State, step s = .next t ∧ t.tx.seq = none

/-- What a fed byte comes to, with the bytes still to feed: a fatal stop ends the step before the feed goes on
(42_rx_parser R170, 60_exceptions R267). -/
def fed (b : Byte) (bs : List Byte) (s : State) : State :=
  if (rxByte b s).halted = none then { rxByte b s with tasks := { (rxByte b s).tasks with feed := bs } }
  else { rxByte b s with tasks := { (rxByte b s).tasks with feed := b :: bs } }

/-! ## Schedules -/

/-- An agent goes on with what it has in progress. -/
def goOn (a : Agent) : Input := { agent := a, act := .resume }

/-- An agent begins an operation. -/
def issue (cfg : Config) (a : Agent) (i : Instr) : Input := { agent := a, act := .issue i.format (encode cfg i) }

/-- The steps of chunk i of a send by `CALLER(k)`, all of which succeed: the delay where R133 puts one, S2, the
completion, S3. -/
def chunkScript (cfg : Config) (k i : Nat) : List Input :=
  (if 2 ≤ i then [goOn (.caller k)] else []) ++
    [goOn (.caller k), issue cfg .txhw (.txDone .ok), goOn (.caller k)]

/-- The steps of m chunks. -/
def chunksScript (cfg : Config) (k m : Nat) : List Input := (List.range m).flatMap (chunkScript cfg k)

/-- A SEND of m chunks from its issue to its return, with no other agent between: S0, S1, the chunks. -/
def sendScript (cfg : Config) (k : Nat) (t v : Byte) (frags : List (List Byte)) (m : Nat) : List Input :=
  [issue cfg (.caller k) (.send t v frags), goOn (.caller k)] ++ chunksScript cfg k m

/-- A JOIN_AP from its issue to its return: S0, J1, S1, the prelude and the payload, J3. -/
def joinScript (cfg : Config) (k : Nat) (ssid pass : List Byte) : List Input :=
  [issue cfg (.caller k) (.joinAp ssid pass), goOn (.caller k), goOn (.caller k)] ++ chunksScript cfg k 2 ++
    [goOn (.caller k)]

/-- The steps of a frame with no other agent between: its first byte with the issue, each later byte a step of the poller
(30_encoding R94, 42_rx_parser R170). -/
def frameScript (cfg : Config) (i : Instr) : List Input :=
  issue cfg .poller i :: List.replicate ((encode cfg i).length - 1) (goOn .poller)

/-- The run of the first n steps of a frame that stands in front of the schedule. -/
def receiveFirst (n : Nat) (i : Instr) (s : State) : Answer :=
  Host.Core.run Sys2Proof.core n { s with env := { s.env with inputs := frameScript s.cfg i ++ s.env.inputs } }

/-- The run of a whole frame that stands in front of the schedule: one step for each of its bytes. -/
def receive (i : Instr) (s : State) : Answer := receiveFirst (encode s.cfg i).length i s

/-- An RX_FEED of every part, one after the other, each byte its own step. -/
def feedScript (cfg : Config) (parts : List (List Byte)) : List Input :=
  parts.flatMap fun p => issue cfg .poller (.rxFeed p) :: List.replicate (p.length - 1) (goOn .poller)

/-- The DMA writes of bytes, in order. -/
def dmaScript (cfg : Config) (bs : List Byte) : List Input := bs.map fun b => issue cfg .rxhw (.dmaWrite b)

/-- A whole POLL that feeds n bytes: P0, n times P1, P2. -/
def pollScript (cfg : Config) (n : Nat) : List Input :=
  issue cfg .poller .poll :: List.replicate (n + 1) (goOn .poller)

/-- The ring after bytes have been written from index w on (44_dma_reader R220). -/
def ringAfter (size : Nat) : Nat → List Byte → Memory → Memory
  | _, [], m => m
  | w, b :: bs, m => ringAfter size ((w + 1) % size) bs (m.write w b)

end Sys2Proof.Machine
end

