-- ==== Sys2Proof/Certificates/Slice0/Obligations.lean ====
section
/-! DEFINITION. The statements for the provers. Each says in its docstring which rule of spec/ it formalises. `Ready c s`
is the condition an operation of agent class c begins under: no fatal stop, INITED = 1, an agent the row names, that
agent idle (60_exceptions R268, R270, R276). -/

open Sys2Proof Sys2Proof.Machine

/-! ## Power-on, the step, the guards -/

/-- 10_state R21, R50, R51: the three registers that have a value at power-on, under any configuration record. -/
def Obligations.PowerOnValues : Prop :=
  ∀ s : State, s = State.reset ∨ (∃ cfg : Config, s = State.powerOn cfg) →
    s.sess.mode = .uninitialized ∧ s.halted = none ∧ s.inited = false

/-- The invariant holds at power-on, under every configuration record that 00_scope R7 admits. It rests on the values the
model names for registers without one (log entry 5). That reset takes the record of log entry 3 is the model's choice. -/
def Obligations.InvariantAtPowerOn : Prop :=
  Inv State.reset ∧ State.reset.cfg = vectorConfig ∧
  ∀ cfg : Config, configOk cfg → Inv (State.powerOn cfg) ∧ (State.powerOn cfg).cfg = cfg

/-- Every step keeps the invariant: the ranges and relations 10_state gives the registers (R24, R27, R29, R31 to R46,
R54), the chain ownership of 43_rx_handlers R197, one holder of the writer lock (20_memory R76). -/
def Obligations.StepKeepsInvariant : Prop :=
  ∀ s t : State, Inv s → step s = .next t → Inv t

/-- 10_state, opening: the configuration record is a parameter, so no step writes it. -/
def Obligations.StepKeepsConfiguration : Prop :=
  ∀ s t : State, step s = .next t → t.cfg = s.cfg

/-- A scheduled element whose bytes decode to an instruction runs that instruction, begun by the scheduled agent, with the
schedule one element shorter. Operation bytes that decode to nothing are refused (30_encoding R90, 93 U2). Wire bytes that
decode to nothing, a frame of an unlisted type among them, are fed to the parser like an RX_FEED (R87; log entry 21). An
agent scheduled to go on takes its next step; with nothing scheduled nothing changes (00_scope R14; log entry 1). -/
def Obligations.StepRunsTheDecodedInstruction : Prop :=
  (∀ (s : State) (a : Agent) (fmt : Format) (bytes : List Byte) (rest : List Input),
    s.halted = none → s.env.inputs = { agent := a, act := .issue fmt bytes } :: rest →
    (∀ (i : Instr) (tail : List Byte), decode s.cfg fmt bytes = .ok (i, tail) →
      step s = exec i { s with env.inputs := rest, env.agent := a }) ∧
    (∀ e : DecodeError, fmt = .op → decode s.cfg fmt bytes = .error e → step s = .refused (.notAnInstruction e)) ∧
    (∀ e : DecodeError, fmt = .frame → decode s.cfg fmt bytes = .error e →
      step s = exec (.rxFeed bytes) { s with env.inputs := rest, env.agent := a })) ∧
  (∀ (s : State) (a : Agent) (rest : List Input),
    s.halted = none → s.env.inputs = { agent := a, act := .resume } :: rest →
    step s = resumeAgent { s with env.inputs := rest, env.agent := a }) ∧
  (∀ s : State, s.halted = none → s.env.inputs = [] → step s = .next s)

/-- 60_exceptions R268: while HALTED is set no agent has a step. -/
def Obligations.HaltedBlockTakesNoStep : Prop :=
  ∀ (i : Instr) (s : State) (c : FatalCode), s.halted = some c →
    exec i s = .fault (.halted c) ∧ resumeAgent s = .fault (.halted c) ∧ step s = .fault (.halted c)

/-- 60_exceptions R270: before the first INIT every operation other than INIT is refused. -/
def Obligations.OnlyInitBeforeInit : Prop :=
  ∀ (i : Instr) (s : State), s.halted = none → s.inited = false → i ≠ .init →
    exec i s = .refused .notInitialised

/-- 60_exceptions R276 and 93_implementation_defined U3: an operation issued by an agent its row does not name. -/
def Obligations.WrongAgentIsRefused : Prop :=
  ∀ (i : Instr) (s : State), s.halted = none → s.inited = true →
    agentAllowed s.cfg (agentColumn i) s.env.agent = false → exec i s = .refused .wrongAgent

/-! ## Encodings -/

/-- Decoding an encoded well-formed instruction gives it back, and the bytes after it: the wire format of 30_encoding
R80 to R84 for the frames, and for the operations the identifiers of R90 with the operand form of log entry 10. -/
def Obligations.DecodeInvertsEncode : Prop :=
  ∀ (cfg : Config) (i : Instr) (tail : List Byte), configOk cfg → i.wf cfg = true →
    decode cfg i.format (encode cfg i ++ tail) = .ok (i, tail)

/-- A few encodings, written out from 30_encoding R80, R84, R90. Two things are the model's: that the table words 01 and 08,
which are type codes too (CLIENTCONFIG, INVALID), are read as INIT and MODE_CAS (log entry 9), and the form of the operands
(log entry 10). -/
def Obligations.WordsDecodeToTheirInstructions : Prop :=
  decodeTableWord 8 0x01 = some .init ∧ decodeTableWord 8 0x0B = some .tickRead ∧
  decodeTableWord 16 0xAA10 = some (.dmaWrite 0xAA) ∧ decodeTableWord 24 0x050408 = some (.modeCas 4 5) ∧
  decode vectorConfig .frame
      [0x55, 0x4E, 0x10, 0x20, 0x30, 0x40, 0x50, 0x60, 0x02, 0x01, 0x00, 0x04, 0xC7, 0xE3, 0xB4, 0xFE, 0xDE, 0xAD, 0xBE, 0xEF] =
    .ok (.packet { intron := [0x55, 0x4E, 0x10, 0x20, 0x30, 0x40, 0x50, 0x60], var := 0x01, checksum := 0xC7E3B4FE
                   payload := [0xDE, 0xAD, 0xBE, 0xEF] }, [])

/-! ## The codec -/

/-- 40_codec R110: the check values of the default checksum. -/
def Obligations.ChecksumCheckValues : Prop :=
  crcFn isoHdlc [0x31, 0x32, 0x33, 0x34, 0x35, 0x36, 0x37, 0x38, 0x39] = 0xCBF43926 ∧
  crcFn isoHdlc [] = 0 ∧ crcFn isoHdlc [0x00] = 0xD202EF8D

/-- 40_codec R113: the split of a payload into fragments never changes its checksum. -/
def Obligations.FragmentWalkIsTheFrameChecksum : Prop :=
  ∀ (p : CrcFn) (intron header : List Byte) (frags : List (List Byte)),
    frameCrcWalk p intron header frags = frameCrc p intron header frags.flatten

/-- 40_codec R112 with 41_transmit R130: the chunks of a send, joined, are BuildFrame of the joined fragments. -/
def Obligations.ChunksJoinToTheBuiltFrame : Prop :=
  ∀ (cfg : Config) (intron : List Byte) (t v : Byte) (frags : List (List Byte)),
    (sendChunks cfg intron t v frags).flatten = buildFrame cfg.crc intron t v frags.flatten

/-- 40_codec R117: a change confined to one covered byte changes the checksum, under any CRC-32 given by parameters (log
entry 4) whose polynomial has a constant term (the default's has one); so a frame whose received checksum was right then
fails CheckFrame. -/
def Obligations.OneByteCorruptionIsDetected : Prop :=
  ∀ (p : CrcParams) (before after : List Byte) (b b' : Byte),
    hasConstantTerm p = true → b ≠ b' → crcFn (.params p) (before ++ b :: after) ≠ crcFn (.params p) (before ++ b' :: after)

/-! ## The transmit framer -/

/-- 41_transmit R130 and R136, step S0, with the lock free: SEND and JOIN_AP take it in one step, and go to S1 and J1. -/
def Obligations.SendAndJoinTakeTheFreeLock : Prop :=
  ∀ (s : State) (k : Nat), Ready .caller s → s.env.agent = .caller k → s.tx.lock = none →
    (∀ (t v : Byte) (frags : List (List Byte)),
      exec (.send t v frags) s =
        .next { s with tx.lock := some k
                       tasks.callers := s.tasks.callers.set k (some (.tx (.send t v frags) .build)) }) ∧
    (∀ ssid pass : List Byte,
      exec (.joinAp ssid pass) s =
        .next { s with tx.lock := some k
                       tasks.callers := s.tasks.callers.set k (some (.tx (.join ssid pass) .prepare)) })

/-- 41_transmit R130 and R136, step S0, by a caller that may have to wait: while the lock is held it waits, and a step of it
changes nothing but that it stands at S0 (log entry 12); once the lock is free, its next step takes it. -/
def Obligations.SendAndJoinWaitForTheLock : Prop :=
  ∀ (s : State) (k : Nat), s.env.agent = .caller k →
    (Ready .caller s → s.tx.lock ≠ none → ∀ (t v : Byte) (frags : List (List Byte)),
      exec (.send t v frags) s =
        .next { s with tasks.callers := s.tasks.callers.set k (some (.tx (.send t v frags) .acquire)) }) ∧
    (Ready .caller s → s.tx.lock ≠ none → ∀ ssid pass : List Byte,
      exec (.joinAp ssid pass) s =
        .next { s with tasks.callers := s.tasks.callers.set k (some (.tx (.join ssid pass) .acquire)) }) ∧
    (∀ job : TxJob, s.halted = none → s.inited = true → callerOp s k = some (.tx job .acquire) →
      (s.tx.lock ≠ none → resumeAgent s = .next s) ∧
      (s.tx.lock = none →
        resumeAgent s =
          .next { s with
            tx.lock := some k
            tasks.callers := s.tasks.callers.set k (some (.tx job (
              match job with
              | .send _ _ _ => .build
              | .join _ _ => .prepare))) }))

/-- 41_transmit R130 step S1, R131 and R136 (J2): a payload over 65535 bytes fails with nothing sent, which frees the lock
and returns FAIL for a SEND and goes to J3 for a JOIN_AP; any other makes the chunks, a JOIN_AP's of its CLIENTCONFIG payload
(R137) under the current intron, and a SCAN_AP_GET is remembered as the most recent query. -/
def Obligations.SendBuildsItsChunks : Prop :=
  ∀ (s : State) (k : Nat), s.halted = none → s.inited = true → s.env.agent = .caller k →
    (∀ (t v : Byte) (frags : List (List Byte)), callerOp s k = some (.tx (.send t v frags) .build) →
      resumeAgent s = .next (
        if fragsTotal frags ≤ 65535 then
          { s with
            sess.lastQuery := if t = s.cfg.typeCode.scanApGet then some v else s.sess.lastQuery
            tx.seq := some { chunks := sendChunks s.cfg s.sess.intron t v frags, k := 0, cur := none, status := .running }
            tasks.callers := s.tasks.callers.set k (some (.tx (.send t v frags) .start)) }
        else
          { s with
            tx.lock := none
            tasks.callers := s.tasks.callers.set k none
            tasks.returns := s.tasks.returns ++ [(.caller k, .sent false)] })) ∧
    (∀ (ssid pass newI payload : List Byte) (code : Byte), callerOp s k = some (.tx (.join ssid pass) .build) →
      s.tx.pendingIntron = some newI → payload = clientConfigPayload newI ssid pass →
      code = s.cfg.typeCode.clientConfig →
      resumeAgent s = .next (
        if payload.length ≤ 65535 then
          { s with
            sess.lastQuery := if code = s.cfg.typeCode.scanApGet then some 0 else s.sess.lastQuery
            tx.seq := some { chunks := sendChunks s.cfg s.sess.intron code 0 [payload], k := 0, cur := none
                             status := .running }
            tasks.callers := s.tasks.callers.set k (some (.tx (.join ssid pass) .start)) }
        else { s with tasks.callers := s.tasks.callers.set k (some (.tx (.join ssid pass) (.finish false))) }))

/-- 41_transmit R132, step S2: with a completion outstanding, Fatal F1; else the start primitive's answer: the chunk is
in flight, or the send is rolled back, FAIL for a SEND and J3 for a JOIN_AP. -/
def Obligations.ChunkStartFollowsTheHardwareAnswer : Prop :=
  ∀ (s : State) (k : Nat) (job : TxJob) (q : TxSeq),
    s.halted = none → s.inited = true → s.env.agent = .caller k →
    callerOp s k = some (.tx job .start) → s.tx.seq = some q →
    (s.tx.pending = true → resumeAgent s = .next { s with halted := some .doubleSignal }) ∧
    (∀ (answer : Bool) (d : Draws), s.tx.pending = false → drawStart s.env.draws = (answer, d) →
      resumeAgent s = .next (
        if answer = true then
          { s with
            tx.pending := true
            tx.seq := some { q with cur := some (q.chunks.getD q.k []), status := .running }
            tasks.callers := s.tasks.callers.set k (some (.tx job .resume))
            env.draws := d }
        else
          match job with
          | .send _ _ _ =>
            { s with
              tx.pending := false, tx.seq := none, tx.lock := none
              tasks.callers := s.tasks.callers.set k none
              tasks.returns := s.tasks.returns ++ [(.caller k, .sent false)]
              env.draws := d }
          | .join _ _ =>
            { s with
              tx.pending := false, tx.seq := none
              tasks.callers := s.tasks.callers.set k (some (.tx job (.finish false)))
              env.draws := d }))

/-- 41_transmit R135, R133 and R136 (J2), step S3 of a SEND or a JOIN_AP: after a failure the send ends with FAIL; after the
last chunk with OK; else the next chunk, behind the delay from chunk 2 on. While the chunk is in flight the caller is
suspended and has no step (R132): that a step of it, if scheduled, then changes nothing is the model's choice, log entry 12. -/
def Obligations.SendResumesAfterCompletion : Prop :=
  ∀ (s : State) (k : Nat) (job : TxJob) (q : TxSeq),
    s.halted = none → s.inited = true → s.env.agent = .caller k →
    callerOp s k = some (.tx job .resume) → s.tx.seq = some q →
    resumeAgent s = .next (
      if s.tx.pending = true ∨ q.status = .running then s
      else if q.status = .fail then sendEnded k job false { s with tx.seq := none }
      else if q.k + 1 = q.chunks.length then sendEnded k job true { s with tx.seq := none }
      else
        { s with
          tx.seq := some { q with k := q.k + 1 }
          tasks.callers := s.tasks.callers.set k (some (.tx job (if 2 ≤ q.k + 1 then .delay else .start))) })

/-- 41_transmit R134: TX_DONE puts the chunk in flight on the wire, or on `fail` a drawn part from its front; with no
transfer in flight it is Fatal F1. -/
def Obligations.TxDoneEndsTheChunk : Prop :=
  ∀ (s : State), Ready .txhw s →
    (∀ st : DoneStatus, s.tx.pending = false →
      exec (.txDone st) s = .next { s with halted := some .doubleSignal }) ∧
    (∀ (q : TxSeq) (ch : List Byte), s.tx.pending = true → s.tx.seq = some q → q.cur = some ch →
      exec (.txDone .ok) s =
        .next { s with tx.pending := false, tx.seq := some { q with status := .ok }
                       out.wireTx := s.out.wireTx ++ ch } ∧
      ∀ (p : Nat) (d : Draws), drawSent ch.length s.env.draws = (p, d) →
        p ≤ ch.length ∧
        exec (.txDone .fail) s =
          .next { s with tx.pending := false, tx.seq := some { q with status := .fail }
                         out.wireTx := s.out.wireTx ++ ch.take p, env.draws := d })

/-- 41_transmit R136, step J1: credentials over 255 bytes return FAIL with nothing sent; any other draw the fresh intron. -/
def Obligations.JoinPreparesTheFreshIntron : Prop :=
  ∀ (s : State) (k : Nat) (ssid pass : List Byte),
    s.halted = none → s.inited = true → s.env.agent = .caller k →
    callerOp s k = some (.tx (.join ssid pass) .prepare) →
    resumeAgent s = .next (
      if ssid.length ≤ 255 ∧ pass.length ≤ 255 then
        { s with
          tx.pendingIntron := some (drawIntron s.cfg s.env.draws).1
          tasks.callers := s.tasks.callers.set k (some (.tx (.join ssid pass) .build))
          env.draws := (drawIntron s.cfg s.env.draws).2 }
      else
        { s with
          tx.lock := none
          tasks.callers := s.tasks.callers.set k none
          tasks.returns := s.tasks.returns ++ [(.caller k, .sent false)] })

/-- 41_transmit R136, step J3: on OK the fresh intron is installed and NEED_AP becomes CONNECTING_AP; on FAIL the intron
and the mode stay. -/
def Obligations.JoinCommitsOnlyOnSuccess : Prop :=
  ∀ (s : State) (k : Nat) (ssid pass newI : List Byte) (ok : Bool),
    s.halted = none → s.inited = true → s.env.agent = .caller k →
    callerOp s k = some (.tx (.join ssid pass) (.finish ok)) → s.tx.pendingIntron = some newI →
    resumeAgent s =
      .next { s with
        sess.intron := if ok = true then newI else s.sess.intron
        sess.mode := if ok = true ∧ s.sess.mode = .needAp then .connectingAp else s.sess.mode
        tx.pendingIntron := none, tx.lock := none
        tasks.callers := s.tasks.callers.set k none
        tasks.returns := s.tasks.returns ++ [(.caller k, .sent ok)] }

/-- 41_transmit R130, R135, R138, R139. First: a SEND run from its issue to its return, with every transfer started and
completed and no other agent between, puts exactly BuildFrame of its message on the wire, returns OK, and leaves the transmit
side idle. Second, under any interleaving, for a SEND or a JOIN_AP that stands at S1: as long as it holds the lock, the wire
has grown by a prefix of its frame and nothing else, so its bytes are one contiguous run; and the step that frees the lock
returns OK with the whole frame on the wire, or FAIL. After FAIL the wire has none of it where S1 found the payload over 65535
bytes; else it has the complete chunks before the failing one and a prefix of that one, which is chunk TXSEQ.k of the step of
the run that freed TXSEQ (`failsAtChunk`: a refused start, with an empty prefix, or a failed completion). -/
def Obligations.SuccessfulSendPutsTheFrameOnTheWire : Prop :=
  (∀ (s : State) (k m : Nat) (t v : Byte) (frags : List (List Byte)) (starts : List Bool) (rest : List Input),
    s.halted = none → s.inited = true → k < s.cfg.nCallers → k < s.tasks.callers.length → callerOp s k = none →
    s.tx.lock = none → s.tx.pending = false → fragsTotal frags ≤ 65535 →
    m = (sendChunks s.cfg s.sess.intron t v frags).length →
    s.env.draws.starts = List.replicate m true ++ starts →
    s.env.inputs = sendScript s.cfg k t v frags m ++ rest →
    Host.Core.run Sys2Proof.core (sendScript s.cfg k t v frags m).length s =
      .next { s with
        sess.lastQuery := if t = s.cfg.typeCode.scanApGet then some v else s.sess.lastQuery
        tx := { s.tx with pending := false, seq := none, lock := none }
        out.wireTx := s.out.wireTx ++ buildFrame s.cfg.crc s.sess.intron t v frags.flatten
        tasks := { s.tasks with callers := s.tasks.callers.set k none
                                returns := s.tasks.returns ++ [(.caller k, .sent true)] }
        env := { inputs := rest, agent := .caller k
                 draws := { s.env.draws with starts := starts, taken := s.env.draws.taken + m } } }) ∧
  (∀ (s u : State) (k n : Nat) (job : TxJob) (frame : List Byte),
    Inv s → callerOp s k = some (.tx job .build) →
    frame = buildFrame s.cfg.crc s.sess.intron (jobType s.cfg job) (jobVar job) (jobFrags s.tx.pendingIntron job).flatten →
    Host.Core.run Sys2Proof.core n s = .next u →
    (∀ (m : Nat) (x : State), m ≤ n → Host.Core.run Sys2Proof.core m s = .next x → x.tx.lock = some k) →
    (∃ sent : List Byte, sent <+: frame ∧ u.out.wireTx = s.out.wireTx ++ sent) ∧
    ∀ w : State, step u = .next w → w.tx.lock ≠ some k →
      ∃ ok : Bool, w.tasks.returns = u.tasks.returns ++ [(.caller k, .sent ok)] ∧
        (ok = true → w.out.wireTx = s.out.wireTx ++ frame) ∧
        (ok = false →
          65535 < fragsTotal (jobFrags s.tx.pendingIntron job) ∧ w.out.wireTx = s.out.wireTx ∨
          ∃ (m : Nat) (x : State) (q : TxSeq) (p : Nat), m ≤ n ∧ Host.Core.run Sys2Proof.core m s = .next x ∧
            failsAtChunk k job (jobChunks job s) q p x ∧
            w.out.wireTx = s.out.wireTx ++ (q.chunks.take q.k).flatten ++ (q.chunks.getD q.k []).take p))

/-- 41_transmit R136, R137: a JOIN_AP run from its issue to its return, with both transfers started and completed, sends
the CLIENTCONFIG frame under the old intron and installs the fresh one. -/
def Obligations.SuccessfulJoinInstallsTheIntron : Prop :=
  ∀ (s : State) (k : Nat) (ssid pass newI : List Byte) (d : Draws) (starts : List Bool) (rest : List Input),
    s.halted = none → s.inited = true → k < s.cfg.nCallers → k < s.tasks.callers.length → callerOp s k = none →
    s.tx.lock = none → s.tx.pending = false → configOk s.cfg → ssid.length ≤ 255 → pass.length ≤ 255 →
    s.cfg.intronLen + 2 + ssid.length + pass.length ≤ 65535 →
    drawIntron s.cfg s.env.draws = (newI, d) → d.starts = true :: true :: starts →
    s.env.inputs = joinScript s.cfg k ssid pass ++ rest →
    Host.Core.run Sys2Proof.core (joinScript s.cfg k ssid pass).length s =
      .next { s with
        sess.intron := newI
        sess.mode := if s.sess.mode = .needAp then .connectingAp else s.sess.mode
        tx := { lock := none, pending := false, seq := none, pendingIntron := none }
        out.wireTx := s.out.wireTx ++
          buildFrame s.cfg.crc s.sess.intron s.cfg.typeCode.clientConfig 0 (clientConfigPayload newI ssid pass)
        tasks := { s.tasks with callers := s.tasks.callers.set k none
                                returns := s.tasks.returns ++ [(.caller k, .sent true)] }
        env := { inputs := rest, agent := .caller k, draws := { d with starts := starts, taken := d.taken + 2 } } }

/-- 41_transmit R138, 10_state R47: only TX_DONE appends to WIRE_TX, only from the chunk in flight, from its front, and
all of it on `ok`. -/
def Obligations.OnlyTxDoneWritesTheWire : Prop :=
  ∀ s t : State, step s = .next t →
    t.out.wireTx = s.out.wireTx ∨
    ∃ (a : Agent) (fmt : Format) (bytes tail : List Byte) (rest : List Input) (st : DoneStatus) (p : Nat),
      s.env.inputs = { agent := a, act := .issue fmt bytes } :: rest ∧
      decode s.cfg fmt bytes = .ok (.txDone st, tail) ∧ s.tx.pending = true ∧
      t.out.wireTx = s.out.wireTx ++ (chunkInFlight s).take p ∧ (st = .ok → p = (chunkInFlight s).length)

/-- 41_transmit R130, R138, 20_memory R76: the writer lock stays with its holder until a step of the holder's own frees
it, and that step returns OK or FAIL to the holder. -/
def Obligations.LockLeavesItsHolderOnlyByReturn : Prop :=
  ∀ (s t : State) (k : Nat), Inv s → s.tx.lock = some k → step s = .next t → t.tx.lock ≠ some k →
    t.tx.lock = none ∧
    (∃ rest : List Input, s.env.inputs = { agent := .caller k, act := .resume } :: rest) ∧
    ∃ ok : Bool, t.tasks.returns = s.tasks.returns ++ [(.caller k, .sent ok)]

/-- 70_reset_and_hazards R301: the writer lock keeps a chunk from starting while a completion is outstanding, so the only
step that raises Fatal F1 is a transfer-complete signal with nothing in flight. -/
def Obligations.DoubleSignalNeedsASpuriousCompletion : Prop :=
  ∀ s t : State, Inv s → step s = .next t → t.halted = some .doubleSignal →
    s.tx.pending = false ∧
    ∃ (a : Agent) (fmt : Format) (bytes tail : List Byte) (rest : List Input) (st : DoneStatus),
      s.env.inputs = { agent := a, act := .issue fmt bytes } :: rest ∧ decode s.cfg fmt bytes = .ok (.txDone st, tail)

/-! ## The receive parser, byte by byte -/

/-- 42_rx_parser R160: a byte in SEEKING_INTRON. -/
def Obligations.ByteWhileSeekingTheIntron : Prop :=
  ∀ (s : State) (b : Byte), Ready .poller s → s.rx.pstate = .seekingIntron →
    exec (.rxByte b) s = .next (
      if s.sess.intron[s.rx.ipos]? = some b then
        if s.rx.ipos + 1 = s.cfg.intronLen then
          { s with
            rx := { s.rx with ibuf := s.rx.ibuf.set s.rx.ipos b, ipos := 0, hpos := 0, skipped := 0, pstate := .header }
            out.events := s.out.events ++ resyncEvents s.rx.skipped }
        else
          { s with rx := { s.rx with ibuf := s.rx.ibuf.set s.rx.ipos b, ipos := s.rx.ipos + 1 } }
      else if s.sess.intron[0]? = some b then
        { s with rx := { s.rx with skipped := s.rx.skipped + s.rx.ipos, ibuf := s.rx.ibuf.set 0 b, ipos := 1 } }
      else
        { s with rx := { s.rx with skipped := s.rx.skipped + s.rx.ipos + 1, ipos := 0 } })

/-- 42_rx_parser R161: a header or checksum byte that is not the last. -/
def Obligations.HeaderByteIsCollected : Prop :=
  ∀ (s : State) (b : Byte), Ready .poller s → s.rx.pstate = .header → s.rx.hpos < 7 →
    exec (.rxByte b) s =
      .next { s with rx := { s.rx with hbuf := s.rx.hbuf.set s.rx.hpos b, hpos := s.rx.hpos + 1 } }

/-- The parser's registers when its last header byte has come and the header is decoded (R161, R162, 10_state R33). -/
abbrev headerDecoded (b : Byte) (p : Parser) : Parser :=
  { p with
    hbuf := p.hbuf.set 7 b, hpos := 0
    rtype := p.hbuf.getD 0 0, rvar := p.hbuf.getD 1 0
    rsize := unbe16 (p.hbuf.getD 2 0) (p.hbuf.getD 3 0)
    rcrc := unbe32 (p.hbuf.getD 4 0) (p.hbuf.getD 5 0) (p.hbuf.getD 6 0) b }

/-- 42_rx_parser R162, with 43_rx_handlers R195, R198, R199, R200, R201: the last header byte decodes the header and
selects the path of its type. -/
def Obligations.HeaderSelectsThePathOfItsType : Prop :=
  ∀ (s : State) (b : Byte) (p : Parser), Ready .poller s → s.rx.pstate = .header → s.rx.hpos = 7 → s.rx.hbuf.length = 8 →
    p = headerDecoded b s.rx →
    (typeOf s.cfg.typeCode p.rtype = some .invalid → s.cfg.debugBuild = true →
      exec (.rxByte b) s =
        .next { s with rx := p, halted := some .invalidMessage, out.events := s.out.events ++ [.protocolError p.rsize] }) ∧
    (typeOf s.cfg.typeCode p.rtype = some .invalid → s.cfg.debugBuild = false →
      exec (.rxByte b) s =
        .next { s with rx := parserDiscarding p.rsize p, out.events := s.out.events ++ [.protocolError p.rsize] }) ∧
    (typeOf s.cfg.typeCode p.rtype = some .packet → p.rsize ≠ 0 → ∀ d : Draws,
      (drawAlloc p.rsize.toNat s.env.draws = (none, d) →
        exec (.rxByte b) s = .next { s with rx := parserDiscarding p.rsize p, env.draws := d }) ∧
      ∀ lens : List Nat, drawAlloc p.rsize.toNat s.env.draws = (some lens, d) →
        exec (.rxByte b) s =
          .next { s with rx := { p with chain := some (freshChain lens), curFrag := 0, curOff := 0, remain := p.rsize
                                        pstate := .payloadStreaming }
                         env.draws := d }) ∧
    (typeOf s.cfg.typeCode p.rtype = some .packet → p.rsize = 0 → s.rx.chain = none →
      exec (.rxByte b) s = .next (
        if frameCrc s.cfg.crc p.ibuf (p.hbuf.take 4) [] = p.rcrc then
          { s with rx := parserIdle p, sess := sessionLinked p.rvar s.sess
                   out.netifLink := s.out.netifLink ++ linkNotes p.rvar s.sess }
        else { s with rx := parserIdle p, out.events := s.out.events ++ [.crcMismatch p.rtype] })) ∧
    (∀ (t : MsgType) (len : Nat), typeOf s.cfg.typeCode p.rtype = some t → fixedLen s.cfg t = some len →
      exec (.rxByte b) s = .next (
        if p.rsize.toNat = len then
          { s with rx := { p with fpos := 0, remain := p.rsize, pstate := .checksumOnly } }
        else
          { s with rx := parserDiscarding p.rsize p
                   out.events := s.out.events ++ [.lengthError p.rtype p.rsize] })) ∧
    ((∀ t, typeOf s.cfg.typeCode p.rtype = some t →
        t = .clientConfig ∨ t = .scanStart ∨ t = .scanStop ∨ t = .scanApGet) →
      exec (.rxByte b) s =
        .next { s with rx := parserDiscarding p.rsize p, out.events := s.out.events ++ [.unknownType p.rtype] })

/-- 42_rx_parser R163 and R164 with 20_memory R65: a payload byte that is not the last is buffered, or written at the
chain's cursor, which moves to the next fragment when its fragment is full. -/
def Obligations.PayloadByteIsStored : Prop :=
  ∀ (s : State) (b : Byte), Ready .poller s → s.rx.remain ≠ 1 →
    (s.rx.pstate = .checksumOnly →
      exec (.rxByte b) s =
        .next { s with rx := { s.rx with fbuf := s.rx.fbuf.set s.rx.fpos b, fpos := s.rx.fpos + 1
                                         remain := s.rx.remain - 1 } }) ∧
    (∀ (ch : Chain) (frag : List Byte), s.rx.pstate = .payloadStreaming → s.rx.chain = some ch →
      ch[s.rx.curFrag]? = some frag →
      exec (.rxByte b) s =
        .next { s with rx := { s.rx with
          chain := some (ch.set s.rx.curFrag (frag.set s.rx.curOff b))
          curFrag := if s.rx.curOff + 1 = frag.length then s.rx.curFrag + 1 else s.rx.curFrag
          curOff := if s.rx.curOff + 1 = frag.length then 0 else s.rx.curOff + 1
          remain := s.rx.remain - 1 } })

/-- 42_rx_parser R165, R166: a discarded byte is counted and nothing else, and the last one ends the frame. -/
def Obligations.DiscardedByteIsOnlyCounted : Prop :=
  ∀ (s : State) (b : Byte), Ready .poller s → s.rx.pstate = .discard →
    exec (.rxByte b) s =
      .next { s with rx := if s.rx.remain = 1 then parserIdle s.rx else { s.rx with remain := s.rx.remain - 1 } }

/-- 42_rx_parser R163, R167 with 43_rx_handlers R190 to R194, R202: the last byte of a fixed payload validates the
checksum over the bytes as received, and only then acts. -/
def Obligations.LastFixedPayloadByteDispatches : Prop :=
  ∀ (s : State) (b : Byte) (p : Parser) (payload : List Byte),
    Ready .poller s → s.rx.pstate = .checksumOnly → s.rx.remain = 1 → s.rx.chain = none →
    p = parserIdle { s.rx with fbuf := s.rx.fbuf.set s.rx.fpos b } →
    payload = (s.rx.fbuf.set s.rx.fpos b).take s.rx.rsize.toNat →
    (frameCrc s.cfg.crc s.rx.ibuf (s.rx.hbuf.take 4) payload ≠ s.rx.rcrc →
      exec (.rxByte b) s = .next { s with rx := p, out.events := s.out.events ++ [.crcMismatch s.rx.rtype] }) ∧
    (frameCrc s.cfg.crc s.rx.ibuf (s.rx.hbuf.take 4) payload = s.rx.rcrc →
      (typeOf s.cfg.typeCode s.rx.rtype = some .deviceInfo → s.rx.rvar = s.cfg.supportedVersion →
        exec (.rxByte b) s =
          .next { s with rx := p, sess.mac := some (payload.take 6)
                         sess.mode := if s.sess.mode = .waitInit then .needAp else s.sess.mode }) ∧
      (typeOf s.cfg.typeCode s.rx.rtype = some .deviceInfo → s.rx.rvar ≠ s.cfg.supportedVersion →
        exec (.rxByte b) s =
          .next { s with rx := p
                         sess.mode := if s.sess.mode = .waitInit then .wrongFirmware else s.sess.mode }) ∧
      (typeOf s.cfg.typeCode s.rx.rtype = some .scanApCount →
        exec (.rxByte b) s = .next { s with rx := p, sess.apCount := payload.headD 0 }) ∧
      (typeOf s.cfg.typeCode s.rx.rtype = some .scanApInfo →
        exec (.rxByte b) s =
          .next { s with rx := p
                         sess.apSlot := if s.sess.lastQuery = some s.rx.rvar then some (s.rx.rvar, payload)
                                        else s.sess.apSlot }))

/-- 42_rx_parser R164, R167 with 43_rx_handlers R196, R197: the last byte of a packet delivers the chain, or releases it
when the checksum fails. -/
def Obligations.LastPacketByteDeliversOrReleases : Prop :=
  ∀ (s : State) (b : Byte) (ch full : Chain) (frag : List Byte),
    Ready .poller s → s.rx.pstate = .payloadStreaming → s.rx.remain = 1 → s.rx.rsize ≠ 0 →
    typeOf s.cfg.typeCode s.rx.rtype = some .packet →
    s.rx.chain = some ch → ch[s.rx.curFrag]? = some frag → full = ch.set s.rx.curFrag (frag.set s.rx.curOff b) →
    exec (.rxByte b) s = .next (
      if frameCrc s.cfg.crc s.rx.ibuf (s.rx.hbuf.take 4) full.flatten = s.rx.rcrc then
        { s with
          rx := parserIdle { s.rx with chain := none }
          sess := sessionLinked s.rx.rvar s.sess
          out.delivered := s.out.delivered ++ [full.flatten]
          out.netifLink := s.out.netifLink ++ linkNotes s.rx.rvar s.sess }
      else
        { s with
          rx := parserIdle { s.rx with chain := none }
          out.events := s.out.events ++ [.crcMismatch s.rx.rtype]
          tasks.released := s.tasks.released ++ [full] })

/-! ## Whole frames -/

/-- 20_memory R67, 30_encoding R94, 42_rx_parser R170: a frame instruction, in any parser state and with any intron, feeds the
first byte of its frame (30_encoding R80) in its own step, and leaves the others for the poller's next steps, one each; a
fatal stop at the byte ends the step before the feed goes on. That the instruction is this feed is log entry 8. -/
def Obligations.FramesAreFedToTheParser : Prop :=
  ∀ (s : State) (f : Frame), Ready .poller s →
    (∀ code, ∃ b bs, frameBytes f.intron code f.var f.checksum f.payload = b :: bs) ∧
    ∀ (b : Byte) (bs : List Byte),
    (∀ code, code = s.cfg.typeCode.deviceInfo → b :: bs = frameBytes f.intron code f.var f.checksum f.payload →
      exec (.deviceInfo f) s = .next (fed b bs s)) ∧
    (∀ code, code = s.cfg.typeCode.clientConfig → b :: bs = frameBytes f.intron code f.var f.checksum f.payload →
      exec (.clientConfig f) s = .next (fed b bs s)) ∧
    (∀ code, code = s.cfg.typeCode.packet → b :: bs = frameBytes f.intron code f.var f.checksum f.payload →
      exec (.packet f) s = .next (fed b bs s)) ∧
    (∀ code, code = s.cfg.typeCode.scanStart → b :: bs = frameBytes f.intron code f.var f.checksum f.payload →
      exec (.scanStart f) s = .next (fed b bs s)) ∧
    (∀ code, code = s.cfg.typeCode.scanStop → b :: bs = frameBytes f.intron code f.var f.checksum f.payload →
      exec (.scanStop f) s = .next (fed b bs s)) ∧
    (∀ code, code = s.cfg.typeCode.scanApGet → b :: bs = frameBytes f.intron code f.var f.checksum f.payload →
      exec (.scanApGet f) s = .next (fed b bs s)) ∧
    (∀ code, code = s.cfg.typeCode.scanApCount → b :: bs = frameBytes f.intron code f.var f.checksum f.payload →
      exec (.scanApCount f) s = .next (fed b bs s)) ∧
    (∀ code, code = s.cfg.typeCode.scanApInfo → b :: bs = frameBytes f.intron code f.var f.checksum f.payload →
      exec (.scanApInfo f) s = .next (fed b bs s)) ∧
    (∀ code, code = s.cfg.typeCode.invalid → b :: bs = frameBytes f.intron code f.var f.checksum f.payload →
      exec (.invalid f) s = .next (fed b bs s))

/-- 40_codec R116 with 43_rx_handlers R191, R192, R201, R202: a recognised DEVICE_INFO frame, received with no other agent
between its bytes. That the instruction is the feed of its bytes is log entry 8. -/
def Obligations.DeviceInfoFrame : Prop :=
  ∀ (s : State) (f : Frame) (code : Byte), Ready .poller s → atFrameStart s → recognisable s f →
    code = s.cfg.typeCode.deviceInfo →
    receive (.deviceInfo f) s = .next (
      if f.payload.length ≠ 6 then
        { s with
          rx := parserAfter code f s.rx
          out.events := s.out.events ++ resyncEvents s.rx.skipped ++
            [.lengthError code (BitVec.ofNat 16 f.payload.length)] }
      else if ¬ checksumRight s.cfg code f then
        { s with
          rx := parserAfterFixed code f s.rx
          out.events := s.out.events ++ resyncEvents s.rx.skipped ++ [.crcMismatch code] }
      else if f.var = s.cfg.supportedVersion then
        { s with
          rx := parserAfterFixed code f s.rx
          sess.mac := some f.payload
          sess.mode := if s.sess.mode = .waitInit then .needAp else s.sess.mode
          out.events := s.out.events ++ resyncEvents s.rx.skipped }
      else
        { s with
          rx := parserAfterFixed code f s.rx
          sess.mode := if s.sess.mode = .waitInit then .wrongFirmware else s.sess.mode
          out.events := s.out.events ++ resyncEvents s.rx.skipped })

/-- 43_rx_handlers R193, R201, R202: a recognised SCAN_AP_COUNT frame, received with no other agent between its bytes. That
the instruction is the feed of its bytes is log entry 8. -/
def Obligations.ApCountFrame : Prop :=
  ∀ (s : State) (f : Frame) (code : Byte), Ready .poller s → atFrameStart s → recognisable s f →
    code = s.cfg.typeCode.scanApCount →
    receive (.scanApCount f) s = .next (
      if f.payload.length ≠ 1 then
        { s with
          rx := parserAfter code f s.rx
          out.events := s.out.events ++ resyncEvents s.rx.skipped ++
            [.lengthError code (BitVec.ofNat 16 f.payload.length)] }
      else if ¬ checksumRight s.cfg code f then
        { s with
          rx := parserAfterFixed code f s.rx
          out.events := s.out.events ++ resyncEvents s.rx.skipped ++ [.crcMismatch code] }
      else
        { s with
          rx := parserAfterFixed code f s.rx
          sess.apCount := f.payload.headD 0
          out.events := s.out.events ++ resyncEvents s.rx.skipped })

/-- 43_rx_handlers R194, R201, R202: a recognised SCAN_AP_INFO frame, received with no other agent between its bytes, is kept
only for the most recent query's index. That the instruction is the feed of its bytes is log entry 8. -/
def Obligations.ApInfoFrame : Prop :=
  ∀ (s : State) (f : Frame) (code : Byte), Ready .poller s → atFrameStart s → recognisable s f →
    code = s.cfg.typeCode.scanApInfo →
    receive (.scanApInfo f) s = .next (
      if f.payload.length ≠ s.cfg.apInfoLen then
        { s with
          rx := parserAfter code f s.rx
          out.events := s.out.events ++ resyncEvents s.rx.skipped ++
            [.lengthError code (BitVec.ofNat 16 f.payload.length)] }
      else if ¬ checksumRight s.cfg code f then
        { s with
          rx := parserAfterFixed code f s.rx
          out.events := s.out.events ++ resyncEvents s.rx.skipped ++ [.crcMismatch code] }
      else
        { s with
          rx := parserAfterFixed code f s.rx
          sess.apSlot := if s.sess.lastQuery = some f.var then some (f.var, f.payload) else s.sess.apSlot
          out.events := s.out.events ++ resyncEvents s.rx.skipped })

/-- 40_codec R116 with 43_rx_handlers R196, R197, R199, R203: a recognised PACKET frame with a payload, into whatever
chain the collaborator answers with, received with no other agent between its bytes. That the instruction is the feed of its
bytes is log entry 8. -/
def Obligations.PacketFrame : Prop :=
  ∀ (s : State) (f : Frame) (code : Byte) (answer : Option (List Nat)) (d : Draws),
    Ready .poller s → atFrameStart s → recognisable s f → code = s.cfg.typeCode.packet → f.payload ≠ [] →
    drawAlloc f.payload.length s.env.draws = (answer, d) →
    (answer = none →
      receive (.packet f) s =
        .next { s with rx := parserAfter code f s.rx, env.draws := d
                       out.events := s.out.events ++ resyncEvents s.rx.skipped }) ∧
    (answer ≠ none → checksumRight s.cfg code f →
      receive (.packet f) s =
        .next { s with
          rx := parserAfter code f s.rx
          sess := sessionLinked f.var s.sess
          out := { s.out with delivered := s.out.delivered ++ [f.payload]
                              netifLink := s.out.netifLink ++ linkNotes f.var s.sess
                              events := s.out.events ++ resyncEvents s.rx.skipped }
          env.draws := d }) ∧
    (answer ≠ none → ¬ checksumRight s.cfg code f →
      ∃ c : Chain, c.flatten = f.payload ∧ answer = some (c.map List.length) ∧
        receive (.packet f) s =
          .next { s with
            rx := parserAfter code f s.rx
            out.events := s.out.events ++ resyncEvents s.rx.skipped ++ [.crcMismatch code]
            tasks.released := s.tasks.released ++ [c]
            env.draws := d })

/-- 43_rx_handlers R198, R202, R203: a recognised PACKET frame with no payload, the keepalive, received with no other agent
between its bytes: no allocation, no delivery. That the instruction is the feed of its bytes is log entry 8. -/
def Obligations.KeepaliveFrame : Prop :=
  ∀ (s : State) (f : Frame) (code : Byte), Ready .poller s → atFrameStart s → recognisable s f →
    code = s.cfg.typeCode.packet → f.payload = [] →
    receive (.packet f) s = .next (
      if checksumRight s.cfg code f then
        { s with
          rx := parserAfter code f s.rx
          sess := sessionLinked f.var s.sess
          out := { s.out with netifLink := s.out.netifLink ++ linkNotes f.var s.sess
                              events := s.out.events ++ resyncEvents s.rx.skipped } }
      else
        { s with
          rx := parserAfter code f s.rx
          out.events := s.out.events ++ resyncEvents s.rx.skipped ++ [.crcMismatch code] })

/-- 43_rx_handlers R200: a recognised frame of a type the block only sends, received with no other agent between its bytes:
the event, and the payload is dropped. That the instruction is the feed of its bytes is log entry 8. -/
def Obligations.SendOnlyFramesAreDiscarded : Prop :=
  ∀ (s : State) (f : Frame), Ready .poller s → atFrameStart s → recognisable s f →
    (∀ code, code = s.cfg.typeCode.clientConfig →
      receive (.clientConfig f) s =
        .next { s with rx := parserAfter code f s.rx
                       out.events := s.out.events ++ resyncEvents s.rx.skipped ++ [.unknownType code] }) ∧
    (∀ code, code = s.cfg.typeCode.scanStart →
      receive (.scanStart f) s =
        .next { s with rx := parserAfter code f s.rx
                       out.events := s.out.events ++ resyncEvents s.rx.skipped ++ [.unknownType code] }) ∧
    (∀ code, code = s.cfg.typeCode.scanStop →
      receive (.scanStop f) s =
        .next { s with rx := parserAfter code f s.rx
                       out.events := s.out.events ++ resyncEvents s.rx.skipped ++ [.unknownType code] }) ∧
    (∀ code, code = s.cfg.typeCode.scanApGet →
      receive (.scanApGet f) s =
        .next { s with rx := parserAfter code f s.rx
                       out.events := s.out.events ++ resyncEvents s.rx.skipped ++ [.unknownType code] })

/-- 43_rx_handlers R195: a recognised INVALID frame, received with no other agent between its bytes, whatever its checksum:
the event, and the payload is dropped; in a debug build the fatal stop at the last header byte, the rest never fed. That the
instruction is the feed of its bytes is log entry 8. -/
def Obligations.InvalidFrame : Prop :=
  ∀ (s : State) (f : Frame) (code : Byte), Ready .poller s → atFrameStart s → recognisable s f →
    code = s.cfg.typeCode.invalid →
    (s.cfg.debugBuild = false →
      receive (.invalid f) s =
        .next { s with
          rx := parserAfter code f s.rx
          out.events := s.out.events ++ resyncEvents s.rx.skipped ++
            [.protocolError (BitVec.ofNat 16 f.payload.length)] }) ∧
    (s.cfg.debugBuild = true →
      receiveFirst (s.cfg.intronLen + 8) (.invalid f) s =
        .next { s with
          rx := { parserDecoded code f s.rx with pstate := .header, ipos := 0, hpos := 0 }
          out.events := s.out.events ++ resyncEvents s.rx.skipped ++
            [.protocolError (BitVec.ofNat 16 f.payload.length)]
          halted := some .invalidMessage
          tasks.feed := (encode s.cfg (.invalid f)).drop (s.cfg.intronLen + 7)
          env.inputs := List.replicate f.payload.length (goOn .poller) ++ s.env.inputs } ∧
      (f.payload ≠ [] → receive (.invalid f) s = .fault (.halted .invalidMessage)))

/-- 42_rx_parser R170: RX_FEED begins with its first byte and holds the rest for its next steps; with no byte it does
nothing; a fatal stop ends it. -/
def Obligations.RxFeedFeedsItsBytesInOrder : Prop :=
  (∀ s : State, Ready .poller s → exec (.rxFeed []) s = .next s) ∧
  (∀ (s : State) (b : Byte) (bs : List Byte), Ready .poller s → (rxByte b s).halted = none →
    exec (.rxFeed (b :: bs)) s = .next { rxByte b s with tasks := { (rxByte b s).tasks with feed := bs } }) ∧
  (∀ (s : State) (b : Byte) (bs : List Byte), Ready .poller s → (rxByte b s).halted = some .invalidMessage →
    exec (.rxFeed (b :: bs)) s = .next { rxByte b s with tasks := { (rxByte b s).tasks with feed := b :: bs } })

/-- 42_rx_parser R168: however a byte sequence is split into RX_FEEDs, each byte a step of its own, the machine ends as
after the bytes fed in one go. -/
def Obligations.ChunkingDoesNotMatter : Prop :=
  ∀ (s : State) (parts : List (List Byte)) (rest : List Input),
    Ready .poller s → s.env.agent = .poller → (rxAll parts.flatten s).halted = none →
    s.env.inputs = feedScript s.cfg parts ++ rest →
    Host.Core.run Sys2Proof.core (feedScript s.cfg parts).length s =
      .next { rxAll parts.flatten s with env := { (rxAll parts.flatten s).env with inputs := rest } }

/-- 70_reset_and_hazards R299, sufficient condition: where the intron's first byte does not stand again later in it,
garbage that completes no intron, however it ends, does not hide the intron after it; the bytes given up are reported. -/
def Obligations.IntronIsFoundAfterGarbage : Prop :=
  ∀ (s : State) (b : Byte) (later garbage : List Byte),
    s.halted = none → s.sess.intron = b :: later → s.sess.intron.length = s.cfg.intronLen → 4 ≤ s.cfg.intronLen →
    b ∉ later → s.rx.pstate = .seekingIntron → s.rx.ipos = 0 → s.rx.ibuf.length = s.cfg.intronLen →
    (∀ n, n ≤ garbage.length → (rxAll (garbage.take n) s).rx.pstate = .seekingIntron) →
    rxAll (garbage ++ s.sess.intron) s =
      { s with
        rx := { s.rx with pstate := .header, ipos := 0, hpos := 0, ibuf := s.sess.intron, skipped := 0 }
        out.events := s.out.events ++ resyncEvents (s.rx.skipped + garbage.length) }

/-- 42_rx_parser R169: outside SEEKING_INTRON a byte is not compared with the intron, and in DISCARD its value does not
matter at all. -/
def Obligations.BytesAreNeverReexamined : Prop :=
  (∀ (s : State) (b : Byte) (other : List Byte), s.rx.pstate ≠ .seekingIntron →
    rxByte b { s with sess.intron := other } =
      { rxByte b s with sess := { (rxByte b s).sess with intron := other } }) ∧
  (∀ (s : State) (b b' : Byte), s.rx.pstate = .discard → rxByte b s = rxByte b' s)

/-- 43_rx_handlers R204, with R191, R192, R203: the only receive-driven writes of MODE, each with its cause: a DEVICE_INFO in
WAIT_INIT, to NEED_AP with the supported version and to WRONG_FIRMWARE with another; a PACKET with its link flag up, from
NEED_AP or CONNECTING_AP to RUNNING. So a DEVICE_INFO in any other mode changes no mode. And the checksum of that frame was
right, which needs the parser's invariant (R31 to R36). -/
def Obligations.ModeEffectsOfReception : Prop :=
  ∀ (s t : State) (b : Byte) (ty : Option MsgType), t = rxByte b s → ty = typeOf s.cfg.typeCode t.rx.rtype →
    (t.sess.mode ≠ s.sess.mode →
      (ty = some .deviceInfo ∧ s.sess.mode = .waitInit ∧
        t.sess.mode = if t.rx.rvar = s.cfg.supportedVersion then .needAp else .wrongFirmware) ∨
      (ty = some .packet ∧ t.rx.rvar ≠ 0 ∧ (s.sess.mode = .needAp ∨ s.sess.mode = .connectingAp) ∧
        t.sess.mode = .running)) ∧
    (ty = some .deviceInfo → s.sess.mode ≠ .waitInit → t.sess.mode = s.sess.mode) ∧
    (parserOk s.cfg s.rx → t.sess.mode ≠ s.sess.mode → ∃ payload : List Byte,
      frameCrc s.cfg.crc t.rx.ibuf (t.rx.hbuf.take 4) payload = t.rx.rcrc ∧
      (ty = some .deviceInfo → payload = t.rx.fbuf.take t.rx.rsize.toNat) ∧
      (ty = some .packet →
        if t.rx.rsize = 0 then payload = [] else t.out.delivered = s.out.delivered ++ [payload]))

/-- 10_state R26, 90_conflicts C2: reception sets ACTIVITY only at the end of a PACKET whose checksum is right. -/
def Obligations.ActivityComesOnlyFromAValidPacket : Prop :=
  ∀ (s : State) (b : Byte), parserOk s.cfg s.rx → s.sess.activity = false → (rxByte b s).sess.activity = true →
    typeOf s.cfg.typeCode (rxByte b s).rx.rtype = some .packet ∧
    ∃ payload : List Byte,
      frameCrc s.cfg.crc (rxByte b s).rx.ibuf ((rxByte b s).rx.hbuf.take 4) payload = (rxByte b s).rx.rcrc ∧
      (if (rxByte b s).rx.rsize = 0 then payload = [] else (rxByte b s).out.delivered = s.out.delivered ++ [payload])

/-! ## The ring -/

/-- 44_dma_reader R220: DMA_WRITE stores at WPOS and advances it around the ring; every other ring byte reads as before. -/
def Obligations.DmaWriteStoresOneByte : Prop :=
  ∀ (s : State) (b : Byte), Ready .rxhw s → s.ring.wpos < s.cfg.ringSize →
    exec (.dmaWrite b) s =
      .next { s with ring.mem := s.ring.mem.write s.ring.wpos b
                     ring.wpos := (s.ring.wpos + 1) % s.cfg.ringSize } ∧
    ringRead (s.ring.mem.write s.ring.wpos b) s.ring.wpos = b ∧
    ∀ a, a ≠ s.ring.wpos → ringRead (s.ring.mem.write s.ring.wpos b) a = ringRead s.ring.mem a

/-- 44_dma_reader R222 P0 and R224: POLL begins with the recovery when an error is pending, else with the snapshot. -/
def Obligations.PollBeginsWithRecoveryOrSnapshot : Prop :=
  ∀ s : State, Ready .poller s →
    (s.ring.errPending = true →
      exec .poll s =
        .next { s with ring := { s.ring with wpos := 0, rpos := 0, errPending := false, irqEn := true }
                       tasks.returns := s.tasks.returns ++ [(.poller, .count 0)] }) ∧
    (s.ring.errPending = false → s.ring.wpos < s.cfg.ringSize → s.ring.rpos < s.cfg.ringSize → ∃ n,
      n < s.cfg.ringSize ∧ (s.ring.rpos + n) % s.cfg.ringSize = s.ring.wpos ∧
      exec .poll s = .next { s with poll := some { w := s.ring.wpos, j := 0, n := n } })

/-- 44_dma_reader R222 P1 and P2: one ring byte a step, read when it is fed; then the read offset moves and POLL returns
its count. -/
def Obligations.PollFeedsThenCommits : Prop :=
  ∀ (s : State) (c : PollCtx), s.halted = none → s.inited = true → s.env.agent = .poller → s.poll = some c →
    (c.j < c.n → ∀ t : State, t = rxByte (ringRead s.ring.mem ((s.ring.rpos + c.j) % s.cfg.ringSize)) s →
      (t.halted = none → resumeAgent s = .next { t with poll := some { c with j := c.j + 1 } }) ∧
      (t.halted.isSome = true → resumeAgent s = .next t)) ∧
    (c.n ≤ c.j →
      resumeAgent s =
        .next { s with ring.rpos := c.w, poll := none
                       tasks.returns := s.tasks.returns ++ [(.poller, .count c.n)] })

/-- 44_dma_reader R225: when the ring was read up to date, fewer than RING_SIZE bytes then arrive, and none during the
poll, the POLL feeds the parser exactly those bytes, in order. -/
def Obligations.PollFeedsExactlyTheReceivedBytes : Prop :=
  ∀ (s u : State) (bs : List Byte) (rest : List Input),
    s.halted = none → s.inited = true → s.poll = none → s.tasks.feed = [] → s.ring.errPending = false →
    2 ≤ s.cfg.ringSize → s.ring.wpos < s.cfg.ringSize → s.ring.rpos = s.ring.wpos → bs.length < s.cfg.ringSize →
    u = rxAll bs s → u.halted = none →
    s.env.inputs = dmaScript s.cfg bs ++ pollScript s.cfg bs.length ++ rest →
    Host.Core.run Sys2Proof.core (dmaScript s.cfg bs ++ pollScript s.cfg bs.length).length s =
      .next { u with
        ring := { s.ring with mem := ringAfter s.cfg.ringSize s.ring.wpos bs s.ring.mem
                              wpos := (s.ring.wpos + bs.length) % s.cfg.ringSize
                              rpos := (s.ring.wpos + bs.length) % s.cfg.ringSize }
        tasks := { u.tasks with returns := s.tasks.returns ++ [(.poller, .count bs.length)] }
        env := { u.env with inputs := rest, agent := .poller } }

/-- 20_memory R79: k bytes that arrive between two snapshots are counted as k mod RING_SIZE; a whole lap looks like none. -/
def Obligations.RingOverrunIsUndetected : Prop :=
  ∀ (s : State) (bs : List Byte) (rest : List Input),
    s.halted = none → s.inited = true → s.poll = none → s.tasks.feed = [] → s.ring.errPending = false →
    2 ≤ s.cfg.ringSize → s.ring.wpos < s.cfg.ringSize → s.ring.rpos = s.ring.wpos →
    s.env.inputs = dmaScript s.cfg bs ++ issue s.cfg .poller .poll :: rest →
    ∃ t : State, Host.Core.run Sys2Proof.core (bs.length + 1) s = .next t ∧
      t.poll = some { w := (s.ring.wpos + bs.length) % s.cfg.ringSize, j := 0, n := bs.length % s.cfg.ringSize }

/-- 44_dma_reader R223: UART_ERROR sets the pending bit and emits its event, every time. With the interrupt disabled, the
second clause, RXHW has no such step: how the model shows that is its own choice (log entry 18). -/
def Obligations.UartErrorIsRecorded : Prop :=
  ∀ s : State, Ready .rxhw s →
    (s.ring.irqEn = true →
      exec .uartError s = .next { s with ring.errPending := true, out.events := s.out.events ++ [.uartError] }) ∧
    (s.ring.irqEn = false → exec .uartError s = .next s)

/-! ## The control operations -/

/-- 45_control R240: INIT where it is enabled. -/
def Obligations.InitStartsASession : Prop :=
  ∀ (s : State) (newI : List Byte) (d : Draws),
    s.halted = none → agentAllowed s.cfg .caller s.env.agent = true → agentBusy s = false →
    (s.inited = true → s.tx.lock = none ∧ s.poll = none) → drawIntron s.cfg s.env.draws = (newI, d) →
    exec .init s =
      .next { s with
        sess := { mode := .waitInit, intron := newI, associated := false, activity := false, mac := none, apCount := 0
                  lastQuery := none, apSlot := none }
        rx := { s.rx with pstate := .seekingIntron, ipos := 0, hpos := 0, fpos := 0, remain := 0, chain := none
                          curFrag := 0, curOff := 0, skipped := 0 }
        ring := { s.ring with wpos := 0, rpos := 0, errPending := false, irqEn := true }
        poll := none
        tx := { lock := none, pending := false, seq := none, pendingIntron := none }
        inited := true
        out.netifLink := s.out.netifLink ++ (if s.inited = true ∧ s.sess.associated = true then [.linkDown] else [])
        tasks.released := s.tasks.released ++ (if s.inited = true then s.rx.chain.toList else [])
        env.draws := d }

/-- 45_control R241: RESET where it is enabled. -/
def Obligations.ResetLeavesRingAndFlagsAlone : Prop :=
  ∀ (s : State) (newI : List Byte) (d : Draws), Ready .caller s → s.tx.lock = none → s.poll = none →
    drawIntron s.cfg s.env.draws = (newI, d) →
    exec .reset s =
      .next { s with
        sess := { s.sess with
          mode := .waitInit, associated := false
          intron := match s.cfg.intronOnReset with
            | .keep => s.sess.intron
            | .rerandomize => newI }
        rx := { s.rx with pstate := .seekingIntron, ipos := 0, hpos := 0, fpos := 0, remain := 0, chain := none
                          curFrag := 0, curOff := 0, skipped := 0 }
        out.netifLink := s.out.netifLink ++ (if s.sess.associated = true then [.linkDown] else [])
        tasks.released := s.tasks.released ++ s.rx.chain.toList
        env.draws := match s.cfg.intronOnReset with
          | .keep => s.env.draws
          | .rerandomize => d }

/-- 45_control R240, R241: a RESET, and an INIT after the first, wait for the lock and for no poll in progress; then the
caller's next step is the operation. That the wait is a step that changes nothing else is the model's (log entry 12). -/
def Obligations.InitAndResetWaitForLockAndPoll : Prop :=
  ∀ (s : State) (k : Nat), s.halted = none → s.inited = true → s.env.agent = .caller k → k < s.cfg.nCallers →
    (s.tx.lock ≠ none ∨ s.poll ≠ none → callerOp s k = none →
      exec .init s = .next { s with tasks.callers := s.tasks.callers.set k (some .initWait) } ∧
      exec .reset s = .next { s with tasks.callers := s.tasks.callers.set k (some .resetWait) }) ∧
    (s.tx.lock ≠ none ∨ s.poll ≠ none → callerOp s k = some .initWait ∨ callerOp s k = some .resetWait →
      resumeAgent s = .next s) ∧
    (s.tx.lock = none → s.poll = none → k < s.tasks.callers.length → ∀ u : State,
      u = { s with tasks.callers := s.tasks.callers.set k none } →
      (callerOp s k = some .initWait → resumeAgent s = exec .init u) ∧
      (callerOp s k = some .resetWait → resumeAgent s = exec .reset u))

/-- 45_control R242, 60_exceptions R266: MODE_CAS writes exactly when MODE is `old`, returns whether it wrote, and raises
Fatal F3 for a code outside 0..8. -/
def Obligations.ModeCasComparesAndSwaps : Prop :=
  ∀ (s : State) (old new : Byte), Ready .caller s →
    (old.toNat ≤ 8 → new.toNat ≤ 8 → ∃ m : Mode, modeCode m = new ∧
      exec (.modeCas old new) s =
        .next { s with sess.mode := if modeCode s.sess.mode = old then m else s.sess.mode
                       tasks.returns :=
                         s.tasks.returns ++ [(s.env.agent, .bool (decide (modeCode s.sess.mode = old)))] }) ∧
    (8 < old.toNat ∨ 8 < new.toNat →
      exec (.modeCas old new) s = .next { s with halted := some .impossibleMode })

/-- 45_control R243, R244, R246, R247 and 20_memory R68: the idempotent reads, for any agent: each returns its register and
changes nothing. -/
def Obligations.StatusReadsReturnTheirRegister : Prop :=
  ∀ s : State, Ready .any s →
    exec .modeRead s =
      .next { s with tasks.returns := s.tasks.returns ++ [(s.env.agent, .byte (modeCode s.sess.mode))] } ∧
    exec .linkUpRead s =
      .next { s with tasks.returns := s.tasks.returns ++ [(s.env.agent, .bool s.sess.associated)] } ∧
    exec .macRead s = .next { s with tasks.returns := s.tasks.returns ++ [(s.env.agent, .mac s.sess.mac)] } ∧
    exec .apCountRead s = .next { s with tasks.returns := s.tasks.returns ++ [(s.env.agent, .byte s.sess.apCount)] }

/-- 45_control R245, R248 and 20_memory R67: the destructive reads return their register and clear it in the same step. -/
def Obligations.DestructiveReadsClearWhatTheyReturn : Prop :=
  (∀ s : State, Ready .poller s →
    exec .tickRead s =
      .next { s with sess.activity := false
                     tasks.returns := s.tasks.returns ++ [(s.env.agent, .bool s.sess.activity)] }) ∧
  (∀ s : State, Ready .caller s →
    exec .apInfoTake s =
      .next { s with sess.apSlot := none
                     tasks.returns := s.tasks.returns ++ [(s.env.agent, .apInfo s.sess.apSlot)] })
end

