-- ==== Sys2Proof/Laws/Draws.lean ====
section
/-! SUPPORT. What the draws answer (00_scope R13): lengths, ranges, and that every legal answer of `Alloc` is drawn. -/

namespace Sys2Proof.Machine

open Sys2Proof

/-- A draw of n bytes has n bytes. -/
@[simp] theorem drawBytes_length (n : Nat) (d : Draws) : (drawBytes n d).1.length = n := by
  induction n generalizing d with
  | zero => rfl
  | succ n ih => simp [drawBytes, ih]

/-- A draw of n bytes takes exactly the n bytes the schedule supplies. -/
theorem drawBytes_supplied (bs rest : List Byte) (d : Draws) (h : d.bytes = bs ++ rest) :
    drawBytes bs.length d = (bs, { d with bytes := rest, taken := d.taken + bs.length }) := by
  induction bs generalizing d with
  | nil =>
    subst h
    rfl
  | cons b bs ih =>
    have h1 : d.bytes = b :: (bs ++ rest) := h
    simp only [List.length_cons, drawBytes, drawByte, h1]
    rw [ih { d with bytes := bs ++ rest, taken := d.taken + 1 } rfl]
    have e : d.taken + 1 + bs.length = d.taken + (bs.length + 1) := by omega
    simp [e]

/-- A fresh intron has `N` bytes. -/
theorem drawIntron_length (cfg : Config) (d : Draws) (h : 2 ≤ cfg.intronLen) :
    (drawIntron cfg d).1.length = cfg.intronLen := by
  simp only [drawIntron, List.length_cons, drawBytes_length]
  omega

/-- A fresh intron begins with `INTRON_FIXED` (10_state R24). -/
@[simp] theorem drawIntron_fixed (cfg : Config) (d : Draws) :
    (drawIntron cfg d).1.take 2 = [cfg.fixed0, cfg.fixed1] := by
  simp [drawIntron]

/-- What a failed transfer leaves is at most the chunk. -/
theorem drawSent_le (len : Nat) (d : Draws) : (drawSent len d).1 ≤ len := by
  unfold drawSent
  split <;> exact Nat.min_le_right _ _

/-- The fragment lengths sum to the size asked for (20_memory R64). -/
theorem splitLens_sum (n : Nat) (ls : List Nat) : (splitLens n ls).sum = n := by
  induction ls generalizing n with
  | nil =>
    unfold splitLens
    split <;> simp_all
  | cons l ls ih =>
    unfold splitLens
    split
    next h => simp [h]
    next h =>
      simp only [List.sum_cons, ih]
      omega

/-- Every fragment has at least one byte (20_memory R64). -/
theorem splitLens_pos (n : Nat) (ls : List Nat) : ∀ l ∈ splitLens n ls, 1 ≤ l := by
  induction ls generalizing n with
  | nil =>
    intro l hl
    unfold splitLens at hl
    split at hl
    · simp at hl
    · rw [List.mem_singleton.mp hl]
      omega
  | cons x ls ih =>
    intro l hl
    unfold splitLens at hl
    split at hl
    · simp at hl
    · rcases List.mem_cons.mp hl with rfl | h
      · exact Nat.le_max_left _ _
      · exact ih _ _ h

/-- Lengths that satisfy R64 are left as they are: every answer of the collaborator is drawn. -/
theorem splitLens_legal (ls : List Nat) (h : ∀ l ∈ ls, 1 ≤ l) : splitLens ls.sum ls = ls := by
  induction ls with
  | nil => rfl
  | cons l ls ih =>
    have hl : 1 ≤ l := h l (List.mem_cons_self ..)
    have hm : max 1 (min l (l + ls.sum)) = l := by omega
    have hne : ¬ (l + ls.sum = 0) := by omega
    simp only [splitLens, List.sum_cons, if_neg hne, hm, Nat.add_sub_cancel_left]
    rw [ih fun x hx => h x (List.mem_cons_of_mem _ hx)]

/-- What `Alloc(n)` answers: a failure, or legal fragment lengths (20_memory R64). -/
theorem drawAlloc_legal (n : Nat) (d : Draws) (lens : List Nat) (h : (drawAlloc n d).1 = some lens) :
    lens.sum = n ∧ ∀ l ∈ lens, 1 ≤ l := by
  unfold drawAlloc at h
  split at h
  all_goals
    obtain ⟨a, -, rfl⟩ := Option.map_eq_some_iff.mp h
    exact ⟨splitLens_sum n a, splitLens_pos n a⟩

/-- The fragments of a fresh chain have the lengths asked for, wherever their numbering starts. -/
theorem freshChainFrom_lengths (j : Nat) (ls : List Nat) : (freshChainFrom j ls).map List.length = ls := by
  induction ls generalizing j with
  | nil => rfl
  | cons l ls ih => simp [freshChainFrom, freshFrag, ih]

/-- A fresh chain has the fragment lengths it was asked for. -/
@[simp] theorem freshChain_lengths (ls : List Nat) : (freshChain ls).map List.length = ls :=
  freshChainFrom_lengths 0 ls

/-- A fresh chain's bytes are as many as its lengths say. -/
theorem freshChain_bytes_length (ls : List Nat) : (freshChain ls).flatten.length = ls.sum := by
  rw [List.length_flatten, freshChain_lengths]

/-- A fresh chain of positive lengths has no empty fragment. -/
theorem freshChain_nonempty (ls : List Nat) (h : ∀ l ∈ ls, 1 ≤ l) : ∀ f ∈ freshChain ls, f ≠ [] := by
  intro f hf hnil
  have hm : f.length ∈ (freshChain ls).map List.length := List.mem_map_of_mem hf
  rw [freshChain_lengths] at hm
  have := h _ hm
  simp [hnil] at this

end Sys2Proof.Machine
end

