-- ==== Sys2Proof/Laws/Chain.lean ====
section
/-! SUPPORT. The chain writer (20_memory R64, R65): a write changes one byte of the concatenation and no fragment's length,
and the cursor stays inside the chain until the last byte. -/

namespace Sys2Proof.Machine

open Sys2Proof

/-- Where the cursor stands in the concatenation of the fragments. -/
def chainPos (c : Chain) (j off : Nat) : Nat := (c.take j).flatten.length + off

/-- A write keeps every fragment's length. -/
@[simp] theorem putByte_lengths (c : Chain) (j off : Nat) (b : Byte) :
    (putByte c j off b).map List.length = c.map List.length := by
  unfold putByte
  apply List.ext_getElem?
  intro i
  simp only [List.getElem?_map, List.getElem?_set, List.getD_eq_getElem?_getD]
  by_cases h : j = i
  · subst h
    by_cases hj : j < c.length <;> simp [hj]
  · simp [h]

/-- A write keeps the number of fragments. -/
@[simp] theorem putByte_length (c : Chain) (j off : Nat) (b : Byte) : (putByte c j off b).length = c.length := by
  simp [putByte]

/-- A write keeps the number of bytes. -/
theorem putByte_flatten_length (c : Chain) (j off : Nat) (b : Byte) :
    (putByte c j off b).flatten.length = c.flatten.length := by
  simp [List.length_flatten]

/-- A write changes the one byte of the concatenation at the cursor. -/
theorem putByte_flatten (c : Chain) (j off : Nat) (b : Byte) (hj : j < c.length) (ho : off < (c.getD j []).length) :
    (putByte c j off b).flatten = c.flatten.set (chainPos c j off) b := by
  induction c generalizing j with
  | nil => simp at hj
  | cons f fs ih =>
    cases j with
    | zero =>
      have ho' : off < f.length := by simpa using ho
      simp [putByte, chainPos, ho']
    | succ j =>
      have hj' : j < fs.length := by simpa using hj
      have ho' : off < (fs.getD j []).length := by simpa using ho
      have hr := ih j hj' ho'
      have hp : chainPos (f :: fs) (j + 1) off = f.length + chainPos fs j off := by
        simp [chainPos, Nat.add_assoc]
      have hc : putByte (f :: fs) (j + 1) off b = f :: putByte fs j off b := by
        simp [putByte]
      rw [hc, List.flatten_cons, hr, hp, List.flatten_cons, List.set_append]
      simp

/-- The cursor's position is inside the concatenation. -/
theorem chainPos_lt (c : Chain) (j off : Nat) (hj : j < c.length) (ho : off < (c.getD j []).length) :
    chainPos c j off < c.flatten.length := by
  induction c generalizing j with
  | nil => simp at hj
  | cons f fs ih =>
    cases j with
    | zero =>
      have ho' : off < f.length := by simpa using ho
      simp only [chainPos, List.take_zero, List.flatten_nil, List.length_nil, Nat.zero_add, List.flatten_cons,
        List.length_append]
      omega
    | succ j =>
      have hr := ih j (by simpa using hj) (by simpa using ho)
      simp only [chainPos, List.take_succ_cons, List.flatten_cons, List.length_append] at hr ⊢
      omega

/-- The concatenation up to a fragment depends on the fragments' lengths alone. -/
theorem take_flatten_length {c d : Chain} (h : d.map List.length = c.map List.length) (j : Nat) :
    (d.take j).flatten.length = (c.take j).flatten.length := by
  rw [List.length_flatten, List.length_flatten, List.map_take, List.map_take, h]

/-- A fragment's length after a write. -/
theorem putByte_getD_length (c : Chain) (j off i : Nat) (b : Byte) :
    ((putByte c j off b).getD i []).length = (c.getD i []).length := by
  have key : ∀ d : Chain, (d.getD i []).length = (d.map List.length).getD i 0 := by
    intro d
    rw [List.getD_eq_getElem?_getD, List.getD_eq_getElem?_getD, List.getElem?_map]
    cases d[i]? <;> rfl
  rw [key, key, putByte_lengths]

/-- One more whole fragment before the cursor. -/
theorem take_succ_flatten_length (c : Chain) (j : Nat) (hj : j < c.length) :
    (c.take (j + 1)).flatten.length = (c.take j).flatten.length + (c.getD j []).length := by
  rw [List.take_add_one, List.flatten_append, List.length_append]
  simp [hj]

/-- Behind the last fragment the position is the chain's length; so a cursor that has moved there has no byte to come. -/
theorem take_all_flatten_length (c : Chain) (j : Nat) (hj : c.length ≤ j) :
    (c.take j).flatten.length = c.flatten.length := by
  rw [List.take_of_length_le hj]

end Sys2Proof.Machine
end

