-- ==== Sys2Proof/Laws/Codec.lean ====
section
/-! SUPPORT. The codec's small lemmas: big-endian fields split and join, lengths, `TypeOf` inverts `TYPE_CODE`. -/

namespace Sys2Proof.Machine

open Sys2Proof

/-- Joining the split bytes of a 16-bit field gives it back (00_scope R12). -/
theorem unbe16_be16 (x : U16) : unbe16 ((be16 x).getD 0 0) ((be16 x).getD 1 0) = x := by
  show ((x >>> 8).setWidth 8 ++ x.setWidth 8 : U16) = x
  apply BitVec.eq_of_getLsbD_eq
  intro i hi
  simp only [BitVec.getLsbD_append, BitVec.getLsbD_setWidth, BitVec.getLsbD_ushiftRight]
  by_cases h : i < 8
  · simp [h]
  · have e : 8 + (i - 8) = i := by omega
    have h2 : i - 8 < 8 := by omega
    simp [h, h2, e]

/-- Joining the split bytes of a 32-bit field gives it back (00_scope R12). -/
theorem unbe32_be32 (x : U32) :
    unbe32 ((be32 x).getD 0 0) ((be32 x).getD 1 0) ((be32 x).getD 2 0) ((be32 x).getD 3 0) = x := by
  show ((x >>> 24).setWidth 8 ++ (x >>> 16).setWidth 8 ++ ((x >>> 8).setWidth 8 ++ x.setWidth 8) : U32) = x
  apply BitVec.eq_of_getLsbD_eq
  intro i hi
  simp only [BitVec.getLsbD_append, BitVec.getLsbD_setWidth, BitVec.getLsbD_ushiftRight]
  rcases (by omega : i < 8 ∨ (8 ≤ i ∧ i < 16) ∨ (16 ≤ i ∧ i < 24) ∨ (24 ≤ i ∧ i < 32)) with h | h | h | h
  · have h1 : i < 8 + 8 := by omega
    simp [h, h1]
  · have h1 : i < 8 + 8 := by omega
    have h2 : ¬ i < 8 := by omega
    have h3 : i - 8 < 8 := by omega
    have e : 8 + (i - 8) = i := by omega
    simp [h1, h2, h3, e]
  · have h1 : ¬ i < 8 + 8 := by omega
    have h2 : i - (8 + 8) < 8 := by omega
    have e : 16 + (i - (8 + 8)) = i := by omega
    simp [h1, h2, e]
  · have h1 : ¬ i < 8 + 8 := by omega
    have h2 : ¬ i - (8 + 8) < 8 := by omega
    have h3 : i - (8 + 8) - 8 < 8 := by omega
    have e : 24 + (i - (8 + 8) - 8) = i := by omega
    simp [h1, h2, h3, e]

@[simp] theorem be16_length (x : U16) : (be16 x).length = 2 := rfl

@[simp] theorem be32_length (x : U32) : (be32 x).length = 4 := rfl

@[simp] theorem headerBytes_length (t v : Byte) (n : Nat) : (headerBytes t v n).length = 4 := rfl

/-- A prelude has `N + 8` bytes (00_scope R8). -/
@[simp] theorem framePrelude_length (i : List Byte) (t v : Byte) (n : Nat) (c : U32) :
    (framePrelude i t v n c).length = i.length + 8 := by
  simp [framePrelude]

/-- A frame has `N + 8 + size` bytes (30_encoding R83). -/
@[simp] theorem frameBytes_length (i : List Byte) (t v : Byte) (c : U32) (p : List Byte) :
    (frameBytes i t v c p).length = i.length + 8 + p.length := by
  simp [frameBytes]

/-- `TypeOf` answers only with a type whose code it was given. -/
theorem typeCodeOf_of_typeOf {c : TypeCodes} {b : Byte} {t : MsgType} (h : typeOf c b = some t) : typeCodeOf c t = b := by
  have := List.find?_some h
  simpa using this

/-- `TypeOf` inverts an injective `TYPE_CODE` (42_rx_parser R162). -/
theorem typeOf_typeCodeOf {c : TypeCodes} (h : (msgTypes.map (typeCodeOf c)).Nodup) (t : MsgType) :
    typeOf c (typeCodeOf c t) = some t := by
  have hall : ∀ x : MsgType, x ∈ msgTypes := by
    intro x
    cases x <;> simp [msgTypes]
  have hinj : ∀ x y : MsgType, typeCodeOf c x = typeCodeOf c y → x = y := fun x y hxy =>
    List.inj_on_of_nodup_map h (hall x) (hall y) hxy
  cases hx : typeOf c (typeCodeOf c t) with
  | none =>
    have := List.find?_eq_none.mp hx t (hall t)
    simp at this
  | some u => exact congrArg some (hinj u t (typeCodeOf_of_typeOf hx))

/-- The fragment walk is one walk over the concatenation (40_codec R113), from any checksum so far. -/
theorem foldl_frags (f : U32 → Byte → U32) (c : U32) (frags : List (List Byte)) :
    frags.foldl (fun c g => g.foldl f c) c = frags.flatten.foldl f c := by
  induction frags generalizing c with
  | nil => rfl
  | cons g gs ih => simp [ih]

end Sys2Proof.Machine
end

