-- ==== Sys2Proof/Laws/Decode.lean ====
section
/-! SUPPORT. The operand decoders read back what the operand encoders wrote, and leave the bytes after it. -/

namespace Sys2Proof

open Sys2Proof.Machine

/-- A byte sequence operand is read back. -/
theorem takeSeq_putSeq (q tail : List Byte) : takeSeq (putSeq q ++ tail) = .ok (q, tail) := by
  induction q with
  | nil =>
    show takeSeq (0 :: tail) = _
    unfold takeSeq
    rfl
  | cons x q ih =>
    show takeSeq (1 :: x :: (putSeq q ++ tail)) = _
    unfold takeSeq
    simp [ih]

/-- The end mark of the fragments. -/
theorem takeFragsTail_end (tail : List Byte) : takeFragsTail (0 :: tail) = .ok ([], [], tail) := by
  unfold takeFragsTail
  rfl

/-- A fragment's bytes are read back in front of whatever fragments follow. -/
theorem takeFragsTail_markBytes {g cur : List Byte} {bytes tail : List Byte} {fs : List (List Byte)}
    (h : takeFragsTail bytes = .ok (cur, fs, tail)) : takeFragsTail (markBytes g ++ bytes) = .ok (g ++ cur, fs, tail) := by
  induction g with
  | nil => exact h
  | cons x g ih =>
    show takeFragsTail (1 :: x :: (markBytes g ++ bytes)) = _
    unfold takeFragsTail
    simp [ih]

/-- A SEND's fragments are read back, from the first start mark on. -/
theorem takeFragsTail_putFrags (fs : List (List Byte)) (tail : List Byte) :
    takeFragsTail (putFrags fs ++ tail) = .ok ([], fs, tail) := by
  induction fs with
  | nil => exact takeFragsTail_end tail
  | cons f fs ih =>
    have hf := takeFragsTail_markBytes (g := f) ih
    have e : putFrags (f :: fs) ++ tail = 2 :: (markBytes f ++ (putFrags fs ++ tail)) := by
      simp [putFrags]
    rw [e]
    unfold takeFragsTail
    simp [hf]

/-- A SEND's fragments operand is read back. -/
theorem takeFrags_putFrags (fs : List (List Byte)) (tail : List Byte) :
    takeFrags (putFrags fs ++ tail) = .ok (fs, tail) := by
  simp [takeFrags, takeFragsTail_putFrags]

/-- TX_DONE's status operand is read back. -/
theorem takeStatus_putStatus (st : DoneStatus) (tail : List Byte) :
    takeStatus (putStatus st :: tail) = .ok (st, tail) := by
  cases st <;> rfl

end Sys2Proof
end

