-- ==== Sys2Proof/Laws/State.lean ====
section
/-! SUPPORT. The fields of a state after each named update: one lemma per field and update, true by rfl, so that no proof
unfolds a record update. -/

namespace Sys2Proof.Machine

open Sys2Proof

variable (s : State)

/-! ### emit -/

@[simp] theorem emit_cfg (ev : Event) : (emit ev s).cfg = s.cfg := rfl
@[simp] theorem emit_sess (ev : Event) : (emit ev s).sess = s.sess := rfl
@[simp] theorem emit_rx (ev : Event) : (emit ev s).rx = s.rx := rfl
@[simp] theorem emit_ring (ev : Event) : (emit ev s).ring = s.ring := rfl
@[simp] theorem emit_poll (ev : Event) : (emit ev s).poll = s.poll := rfl
@[simp] theorem emit_tx (ev : Event) : (emit ev s).tx = s.tx := rfl
@[simp] theorem emit_out (ev : Event) : (emit ev s).out = { s.out with events := s.out.events ++ [ev] } := rfl
@[simp] theorem emit_halted (ev : Event) : (emit ev s).halted = s.halted := rfl
@[simp] theorem emit_inited (ev : Event) : (emit ev s).inited = s.inited := rfl
@[simp] theorem emit_tasks (ev : Event) : (emit ev s).tasks = s.tasks := rfl
@[simp] theorem emit_env (ev : Event) : (emit ev s).env = s.env := rfl

/-! ### wireOut -/

@[simp] theorem wireOut_cfg (bytes : List Byte) : (wireOut bytes s).cfg = s.cfg := rfl
@[simp] theorem wireOut_sess (bytes : List Byte) : (wireOut bytes s).sess = s.sess := rfl
@[simp] theorem wireOut_rx (bytes : List Byte) : (wireOut bytes s).rx = s.rx := rfl
@[simp] theorem wireOut_ring (bytes : List Byte) : (wireOut bytes s).ring = s.ring := rfl
@[simp] theorem wireOut_poll (bytes : List Byte) : (wireOut bytes s).poll = s.poll := rfl
@[simp] theorem wireOut_tx (bytes : List Byte) : (wireOut bytes s).tx = s.tx := rfl
@[simp] theorem wireOut_out (bytes : List Byte) : (wireOut bytes s).out = { s.out with wireTx := s.out.wireTx ++ bytes } := rfl
@[simp] theorem wireOut_halted (bytes : List Byte) : (wireOut bytes s).halted = s.halted := rfl
@[simp] theorem wireOut_inited (bytes : List Byte) : (wireOut bytes s).inited = s.inited := rfl
@[simp] theorem wireOut_tasks (bytes : List Byte) : (wireOut bytes s).tasks = s.tasks := rfl
@[simp] theorem wireOut_env (bytes : List Byte) : (wireOut bytes s).env = s.env := rfl

/-! ### notify -/

@[simp] theorem notify_cfg (n : LinkNote) : (notify n s).cfg = s.cfg := rfl
@[simp] theorem notify_sess (n : LinkNote) : (notify n s).sess = s.sess := rfl
@[simp] theorem notify_rx (n : LinkNote) : (notify n s).rx = s.rx := rfl
@[simp] theorem notify_ring (n : LinkNote) : (notify n s).ring = s.ring := rfl
@[simp] theorem notify_poll (n : LinkNote) : (notify n s).poll = s.poll := rfl
@[simp] theorem notify_tx (n : LinkNote) : (notify n s).tx = s.tx := rfl
@[simp] theorem notify_out (n : LinkNote) : (notify n s).out = { s.out with netifLink := s.out.netifLink ++ [n] } := rfl
@[simp] theorem notify_halted (n : LinkNote) : (notify n s).halted = s.halted := rfl
@[simp] theorem notify_inited (n : LinkNote) : (notify n s).inited = s.inited := rfl
@[simp] theorem notify_tasks (n : LinkNote) : (notify n s).tasks = s.tasks := rfl
@[simp] theorem notify_env (n : LinkNote) : (notify n s).env = s.env := rfl

/-! ### giveResult -/

@[simp] theorem giveResult_cfg (a : Agent) (v : Result) : (giveResult a v s).cfg = s.cfg := rfl
@[simp] theorem giveResult_sess (a : Agent) (v : Result) : (giveResult a v s).sess = s.sess := rfl
@[simp] theorem giveResult_rx (a : Agent) (v : Result) : (giveResult a v s).rx = s.rx := rfl
@[simp] theorem giveResult_ring (a : Agent) (v : Result) : (giveResult a v s).ring = s.ring := rfl
@[simp] theorem giveResult_poll (a : Agent) (v : Result) : (giveResult a v s).poll = s.poll := rfl
@[simp] theorem giveResult_tx (a : Agent) (v : Result) : (giveResult a v s).tx = s.tx := rfl
@[simp] theorem giveResult_out (a : Agent) (v : Result) : (giveResult a v s).out = s.out := rfl
@[simp] theorem giveResult_halted (a : Agent) (v : Result) : (giveResult a v s).halted = s.halted := rfl
@[simp] theorem giveResult_inited (a : Agent) (v : Result) : (giveResult a v s).inited = s.inited := rfl
@[simp] theorem giveResult_tasks (a : Agent) (v : Result) : (giveResult a v s).tasks = { s.tasks with returns := s.tasks.returns ++ [(a, v)] } := rfl
@[simp] theorem giveResult_env (a : Agent) (v : Result) : (giveResult a v s).env = s.env := rfl

/-! ### raiseFatal -/

@[simp] theorem raiseFatal_cfg (c : FatalCode) : (raiseFatal c s).cfg = s.cfg := rfl
@[simp] theorem raiseFatal_sess (c : FatalCode) : (raiseFatal c s).sess = s.sess := rfl
@[simp] theorem raiseFatal_rx (c : FatalCode) : (raiseFatal c s).rx = s.rx := rfl
@[simp] theorem raiseFatal_ring (c : FatalCode) : (raiseFatal c s).ring = s.ring := rfl
@[simp] theorem raiseFatal_poll (c : FatalCode) : (raiseFatal c s).poll = s.poll := rfl
@[simp] theorem raiseFatal_tx (c : FatalCode) : (raiseFatal c s).tx = s.tx := rfl
@[simp] theorem raiseFatal_out (c : FatalCode) : (raiseFatal c s).out = s.out := rfl
@[simp] theorem raiseFatal_halted (c : FatalCode) : (raiseFatal c s).halted = some c := rfl
@[simp] theorem raiseFatal_inited (c : FatalCode) : (raiseFatal c s).inited = s.inited := rfl
@[simp] theorem raiseFatal_tasks (c : FatalCode) : (raiseFatal c s).tasks = s.tasks := rfl
@[simp] theorem raiseFatal_env (c : FatalCode) : (raiseFatal c s).env = s.env := rfl

/-! ### setCallerOp -/

@[simp] theorem setCallerOp_cfg (k : Nat) (op : Option CallerOp) : (setCallerOp k op s).cfg = s.cfg := rfl
@[simp] theorem setCallerOp_sess (k : Nat) (op : Option CallerOp) : (setCallerOp k op s).sess = s.sess := rfl
@[simp] theorem setCallerOp_rx (k : Nat) (op : Option CallerOp) : (setCallerOp k op s).rx = s.rx := rfl
@[simp] theorem setCallerOp_ring (k : Nat) (op : Option CallerOp) : (setCallerOp k op s).ring = s.ring := rfl
@[simp] theorem setCallerOp_poll (k : Nat) (op : Option CallerOp) : (setCallerOp k op s).poll = s.poll := rfl
@[simp] theorem setCallerOp_tx (k : Nat) (op : Option CallerOp) : (setCallerOp k op s).tx = s.tx := rfl
@[simp] theorem setCallerOp_out (k : Nat) (op : Option CallerOp) : (setCallerOp k op s).out = s.out := rfl
@[simp] theorem setCallerOp_halted (k : Nat) (op : Option CallerOp) : (setCallerOp k op s).halted = s.halted := rfl
@[simp] theorem setCallerOp_inited (k : Nat) (op : Option CallerOp) : (setCallerOp k op s).inited = s.inited := rfl
@[simp] theorem setCallerOp_tasks (k : Nat) (op : Option CallerOp) : (setCallerOp k op s).tasks = { s.tasks with callers := s.tasks.callers.set k op } := rfl
@[simp] theorem setCallerOp_env (k : Nat) (op : Option CallerOp) : (setCallerOp k op s).env = s.env := rfl

/-! ### endFrame -/

@[simp] theorem endFrame_cfg : (endFrame s).cfg = s.cfg := rfl
@[simp] theorem endFrame_sess : (endFrame s).sess = s.sess := rfl
@[simp] theorem endFrame_rx : (endFrame s).rx = parserEnd s.rx := rfl
@[simp] theorem endFrame_ring : (endFrame s).ring = s.ring := rfl
@[simp] theorem endFrame_poll : (endFrame s).poll = s.poll := rfl
@[simp] theorem endFrame_tx : (endFrame s).tx = s.tx := rfl
@[simp] theorem endFrame_out : (endFrame s).out = s.out := rfl
@[simp] theorem endFrame_halted : (endFrame s).halted = s.halted := rfl
@[simp] theorem endFrame_inited : (endFrame s).inited = s.inited := rfl
@[simp] theorem endFrame_tasks : (endFrame s).tasks = s.tasks := rfl
@[simp] theorem endFrame_env : (endFrame s).env = s.env := rfl

/-! ### markActivity -/

@[simp] theorem markActivity_cfg : (markActivity s).cfg = s.cfg := rfl
@[simp] theorem markActivity_sess : (markActivity s).sess = { s.sess with activity := true } := rfl
@[simp] theorem markActivity_rx : (markActivity s).rx = s.rx := rfl
@[simp] theorem markActivity_ring : (markActivity s).ring = s.ring := rfl
@[simp] theorem markActivity_poll : (markActivity s).poll = s.poll := rfl
@[simp] theorem markActivity_tx : (markActivity s).tx = s.tx := rfl
@[simp] theorem markActivity_out : (markActivity s).out = s.out := rfl
@[simp] theorem markActivity_halted : (markActivity s).halted = s.halted := rfl
@[simp] theorem markActivity_inited : (markActivity s).inited = s.inited := rfl
@[simp] theorem markActivity_tasks : (markActivity s).tasks = s.tasks := rfl
@[simp] theorem markActivity_env : (markActivity s).env = s.env := rfl

/-! ### uartErrorSeen -/

@[simp] theorem uartErrorSeen_cfg : (uartErrorSeen s).cfg = s.cfg := rfl
@[simp] theorem uartErrorSeen_sess : (uartErrorSeen s).sess = s.sess := rfl
@[simp] theorem uartErrorSeen_rx : (uartErrorSeen s).rx = s.rx := rfl
@[simp] theorem uartErrorSeen_ring : (uartErrorSeen s).ring = { s.ring with errPending := true } := rfl
@[simp] theorem uartErrorSeen_poll : (uartErrorSeen s).poll = s.poll := rfl
@[simp] theorem uartErrorSeen_tx : (uartErrorSeen s).tx = s.tx := rfl
@[simp] theorem uartErrorSeen_out : (uartErrorSeen s).out = { s.out with events := s.out.events ++ [.uartError] } := rfl
@[simp] theorem uartErrorSeen_halted : (uartErrorSeen s).halted = s.halted := rfl
@[simp] theorem uartErrorSeen_inited : (uartErrorSeen s).inited = s.inited := rfl
@[simp] theorem uartErrorSeen_tasks : (uartErrorSeen s).tasks = s.tasks := rfl
@[simp] theorem uartErrorSeen_env : (uartErrorSeen s).env = s.env := rfl

/-! ### recover -/

@[simp] theorem recover_cfg : (recover s).cfg = s.cfg := rfl
@[simp] theorem recover_sess : (recover s).sess = s.sess := rfl
@[simp] theorem recover_rx : (recover s).rx = s.rx := rfl
@[simp] theorem recover_ring : (recover s).ring = { s.ring with irqEn := true, wpos := 0, rpos := 0, errPending := false } := rfl
@[simp] theorem recover_poll : (recover s).poll = s.poll := rfl
@[simp] theorem recover_tx : (recover s).tx = s.tx := rfl
@[simp] theorem recover_out : (recover s).out = s.out := rfl
@[simp] theorem recover_halted : (recover s).halted = s.halted := rfl
@[simp] theorem recover_inited : (recover s).inited = s.inited := rfl
@[simp] theorem recover_tasks : (recover s).tasks = s.tasks := rfl
@[simp] theorem recover_env : (recover s).env = s.env := rfl

/-! ### chunkStarted -/

@[simp] theorem chunkStarted_cfg (q : TxSeq) (ch : List Byte) : (chunkStarted q ch s).cfg = s.cfg := rfl
@[simp] theorem chunkStarted_sess (q : TxSeq) (ch : List Byte) : (chunkStarted q ch s).sess = s.sess := rfl
@[simp] theorem chunkStarted_rx (q : TxSeq) (ch : List Byte) : (chunkStarted q ch s).rx = s.rx := rfl
@[simp] theorem chunkStarted_ring (q : TxSeq) (ch : List Byte) : (chunkStarted q ch s).ring = s.ring := rfl
@[simp] theorem chunkStarted_poll (q : TxSeq) (ch : List Byte) : (chunkStarted q ch s).poll = s.poll := rfl
@[simp] theorem chunkStarted_tx (q : TxSeq) (ch : List Byte) : (chunkStarted q ch s).tx = { s.tx with pending := true, seq := some { q with cur := some ch, status := .running } } := rfl
@[simp] theorem chunkStarted_out (q : TxSeq) (ch : List Byte) : (chunkStarted q ch s).out = s.out := rfl
@[simp] theorem chunkStarted_halted (q : TxSeq) (ch : List Byte) : (chunkStarted q ch s).halted = s.halted := rfl
@[simp] theorem chunkStarted_inited (q : TxSeq) (ch : List Byte) : (chunkStarted q ch s).inited = s.inited := rfl
@[simp] theorem chunkStarted_tasks (q : TxSeq) (ch : List Byte) : (chunkStarted q ch s).tasks = s.tasks := rfl
@[simp] theorem chunkStarted_env (q : TxSeq) (ch : List Byte) : (chunkStarted q ch s).env = s.env := rfl

/-! ### chunkDone -/

@[simp] theorem chunkDone_cfg (st : TxStatus) : (chunkDone st s).cfg = s.cfg := rfl
@[simp] theorem chunkDone_sess (st : TxStatus) : (chunkDone st s).sess = s.sess := rfl
@[simp] theorem chunkDone_rx (st : TxStatus) : (chunkDone st s).rx = s.rx := rfl
@[simp] theorem chunkDone_ring (st : TxStatus) : (chunkDone st s).ring = s.ring := rfl
@[simp] theorem chunkDone_poll (st : TxStatus) : (chunkDone st s).poll = s.poll := rfl
@[simp] theorem chunkDone_tx (st : TxStatus) : (chunkDone st s).tx = { s.tx with pending := false, seq := s.tx.seq.map fun q => { q with status := st } } := rfl
@[simp] theorem chunkDone_out (st : TxStatus) : (chunkDone st s).out = s.out := rfl
@[simp] theorem chunkDone_halted (st : TxStatus) : (chunkDone st s).halted = s.halted := rfl
@[simp] theorem chunkDone_inited (st : TxStatus) : (chunkDone st s).inited = s.inited := rfl
@[simp] theorem chunkDone_tasks (st : TxStatus) : (chunkDone st s).tasks = s.tasks := rfl
@[simp] theorem chunkDone_env (st : TxStatus) : (chunkDone st s).env = s.env := rfl

/-! ### takeInput -/

@[simp] theorem takeInput_cfg (inp : Input) (rest : List Input) : (takeInput inp rest s).cfg = s.cfg := rfl
@[simp] theorem takeInput_sess (inp : Input) (rest : List Input) : (takeInput inp rest s).sess = s.sess := rfl
@[simp] theorem takeInput_rx (inp : Input) (rest : List Input) : (takeInput inp rest s).rx = s.rx := rfl
@[simp] theorem takeInput_ring (inp : Input) (rest : List Input) : (takeInput inp rest s).ring = s.ring := rfl
@[simp] theorem takeInput_poll (inp : Input) (rest : List Input) : (takeInput inp rest s).poll = s.poll := rfl
@[simp] theorem takeInput_tx (inp : Input) (rest : List Input) : (takeInput inp rest s).tx = s.tx := rfl
@[simp] theorem takeInput_out (inp : Input) (rest : List Input) : (takeInput inp rest s).out = s.out := rfl
@[simp] theorem takeInput_halted (inp : Input) (rest : List Input) : (takeInput inp rest s).halted = s.halted := rfl
@[simp] theorem takeInput_inited (inp : Input) (rest : List Input) : (takeInput inp rest s).inited = s.inited := rfl
@[simp] theorem takeInput_tasks (inp : Input) (rest : List Input) : (takeInput inp rest s).tasks = s.tasks := rfl
@[simp] theorem takeInput_env (inp : Input) (rest : List Input) : (takeInput inp rest s).env = { s.env with inputs := rest, agent := inp.agent } := rfl

end Sys2Proof.Machine
end

