-- ==== Sys2Proof/Laws/Effects.lean ====
section
/-! SUPPORT. What the conditional operations do, each said once as one record update, so that a proof rewrites with it and
does not split the operation. -/

namespace Sys2Proof.Machine

open Sys2Proof

/-- Query tracking (41_transmit R131). -/
theorem trackQuery_eq (t v : Byte) (s : State) :
    trackQuery t v s =
      { s with sess.lastQuery := if t = s.cfg.typeCode.scanApGet then some v else s.sess.lastQuery } := by
  unfold trackQuery
  split <;> rfl

/-- `StartDiscard(n)` (42_rx_parser R166). -/
theorem startDiscard_eq (n : U16) (s : State) : startDiscard n s = { s with rx := parserDiscarding n s.rx } := by
  unfold startDiscard parserDiscarding
  split <;> rfl

/-- The out-of-sync report (42_rx_parser R160). -/
theorem reportSkipped_eq (s : State) :
    reportSkipped s =
      { s with rx.skipped := 0, out.events := s.out.events ++ resyncEvents s.rx.skipped } := by
  unfold reportSkipped resyncEvents
  split
  next h => simp [← h]
  next => rfl

/-- A compare-and-swap of MODE (10_state R23). -/
theorem casMode_eq (old new : Mode) (s : State) :
    casMode old new s = { s with sess.mode := if s.sess.mode = old then new else s.sess.mode } := by
  unfold casMode
  split <;> rfl

/-- What a valid PACKET does to the session and to the link notifications (43_rx_handlers R198, R203). -/
theorem linkFlag_markActivity (v : Byte) (s : State) :
    linkFlag v (markActivity s) =
      { s with sess := sessionLinked v s.sess, out.netifLink := s.out.netifLink ++ linkNotes v s.sess } := by
  unfold linkFlag linkUpOf setAssociated linkUpMode casMode sessionLinked linkNotes markActivity notify
  by_cases hv : v = 0 <;> cases ha : s.sess.associated <;> cases hm : s.sess.mode <;> simp_all

/-- A release (20_memory R64). -/
theorem releaseChain_eq (s : State) :
    releaseChain s = { s with rx.chain := none, tasks.released := s.tasks.released ++ s.rx.chain.toList } := by
  unfold releaseChain
  split
  next h =>
    simp only [h, Option.toList_none, List.append_nil]
    rw [← h]
  next h => simp [h]

/-- A delivery (20_memory R64). -/
theorem deliverChain_eq (s : State) :
    deliverChain s =
      { s with rx.chain := none, out.delivered := s.out.delivered ++ s.rx.chain.toList.map chainBytes } := by
  unfold deliverChain
  split
  next h =>
    simp only [h, Option.toList_none, List.map_nil, List.append_nil]
    rw [← h]
  next h => simp [h]

/-- A link-down notification at the end of a session (45_control R240). -/
theorem noteLinkDown_eq (s : State) :
    noteLinkDown s =
      { s with out.netifLink := s.out.netifLink ++ if s.sess.associated = true then [.linkDown] else [] } := by
  unfold noteLinkDown notify
  split <;> simp

/-- The association's end in a RESET (45_control R241). -/
theorem dropAssociation_eq (s : State) :
    dropAssociation s =
      { s with
        sess.associated := false
        out.netifLink := s.out.netifLink ++ if s.sess.associated = true then [.linkDown] else [] } := by
  unfold dropAssociation notify
  split
  next h => simp
  next h =>
    have h' : s.sess.associated = false := by simpa using h
    simp [← h']

/-- Whether a payload fits the size field, as a proposition (30_encoding R91). -/
theorem payloadFits_iff (frags : List (List Byte)) : payloadFits frags = true ↔ fragsTotal frags ≤ 65535 := by
  simp [payloadFits]

/-- Whether credentials fit their length bytes, as a proposition (30_encoding R91). -/
theorem credentialsFit_iff (ssid pass : List Byte) :
    credentialsFit ssid pass = true ↔ ssid.length ≤ 255 ∧ pass.length ≤ 255 := by
  simp [credentialsFit]

/-- The total of a SEND's fragments is the length of their concatenation. -/
theorem fragsTotal_eq (frags : List (List Byte)) : fragsTotal frags = frags.flatten.length := by
  simp [fragsTotal, List.length_flatten]

end Sys2Proof.Machine
end

