-- ==== Sys2Proof/Laws/Enter.lean ====
section
/-! SUPPORT. The conditions an operation begins under: what `enter` answers, in both directions. -/

namespace Sys2Proof.Machine

open Sys2Proof

/-- Under its conditions an operation begins. -/
theorem enter_of_ready {c : AgentClass} {s : State} (h : Ready c s) (body : State → Answer) : enter c s body = body s := by
  obtain ⟨h1, h2, h3, h4⟩ := h
  simp [enter, enterAlways, h1, h2, h3, h4]

/-- As `enter_of_ready`, for the one operation that needs no INITED. -/
theorem enterAlways_of_ready {c : AgentClass} {s : State} (h1 : s.halted = none)
    (h2 : agentAllowed s.cfg c s.env.agent = true) (h3 : agentBusy s = false) (body : State → Answer) :
    enterAlways c s body = body s := by
  simp [enterAlways, h1, h2, h3]

/-- An operation that answers a next state began under its conditions, and its body gave that state. -/
theorem enterAlways_next {c : AgentClass} {s t : State} {body : State → Answer} (h : enterAlways c s body = .next t) :
    s.halted = none ∧ agentAllowed s.cfg c s.env.agent = true ∧ agentBusy s = false ∧ body s = .next t := by
  unfold enterAlways at h
  split at h
  · cases h
  next h1 =>
    split at h
    next h2 =>
      split at h
      · cases h
      next h3 => exact ⟨h1, h2, by simpa using h3, h⟩
    next => cases h

/-- As `enterAlways_next`, with INITED. -/
theorem enter_next {c : AgentClass} {s t : State} {body : State → Answer} (h : enter c s body = .next t) :
    Ready c s ∧ body s = .next t := by
  unfold enter at h
  split at h
  · cases h
  next h1 =>
    split at h
    next h2 =>
      obtain ⟨-, h3, h4, h5⟩ := enterAlways_next h
      exact ⟨⟨h1, h2, h3, h4⟩, h5⟩
    next => cases h

/-- A halted block begins nothing (60_exceptions R268). -/
theorem enter_halted {c : AgentClass} {s : State} {code : FatalCode} (h : s.halted = some code) (body : State → Answer) :
    enter c s body = .fault (.halted code) := by
  simp [enter, h]

/-- Before the first INIT an operation is refused (60_exceptions R270). -/
theorem enter_notInitialised {c : AgentClass} {s : State} (h1 : s.halted = none) (h2 : s.inited = false)
    (body : State → Answer) : enter c s body = .refused .notInitialised := by
  simp [enter, h1, h2]

/-- The caller of a caller's operation is an agent of the configuration. -/
theorem agentAllowed_caller {cfg : Config} {a : Agent} (h : agentAllowed cfg .caller a = true) :
    ∃ k, a = .caller k ∧ k < cfg.nCallers := by
  cases a <;> simp_all [agentAllowed, agentExists]

end Sys2Proof.Machine
end

