-- ==== Sys2Proof/Laws/Memory.lean ====
section
/-! SUPPORT. Byte memory: read after write, and the canonical form that every write keeps. -/

namespace Sys2Proof.Machine

open Sys2Proof

/-- Every entry of a written memory is the new one or an old one. -/
theorem Memory.mem_write {m : Memory} {a : Nat} {b : Byte} {x : Host.Cell} (h : x ∈ m.write a b) :
    x = (a, b) ∨ x ∈ m := by
  induction m with
  | nil => simpa [Memory.write] using h
  | cons y r ih =>
    obtain ⟨z, c⟩ := y
    simp only [Memory.write] at h
    split at h
    · simpa using h
    · split at h
      · simp only [List.mem_cons] at h ⊢
        exact h.imp_right Or.inr
      · simp only [List.mem_cons] at h ⊢
        rcases h with h | h
        · exact Or.inr (Or.inl h)
        · exact (ih h).imp_right Or.inr

/-- A write keeps the canonical form. -/
theorem Memory.write_wf {m : Memory} (a : Nat) (b : Byte) (h : Memory.wf m) : Memory.wf (m.write a b) := by
  induction m with
  | nil => simp [Memory.write, Memory.wf]
  | cons y r ih =>
    obtain ⟨z, c⟩ := y
    have hr := (List.pairwise_cons.mp h)
    simp only [Memory.write]
    split
    next hlt =>
      refine List.pairwise_cons.mpr ⟨?_, h⟩
      intro x hx
      rcases List.mem_cons.mp hx with rfl | hx
      · exact hlt
      · exact Nat.lt_trans hlt (hr.1 x hx)
    next hge =>
      split
      next heq =>
        subst heq
        exact List.pairwise_cons.mpr ⟨hr.1, hr.2⟩
      next hne =>
        refine List.pairwise_cons.mpr ⟨?_, ih hr.2⟩
        intro x hx
        rcases Memory.mem_write hx with rfl | hx
        · show z < a
          omega
        · exact hr.1 x hx

/-- A write puts no address beyond a bound that holds of it and of the memory. -/
theorem Memory.write_bound {m : Memory} {a n : Nat} {b : Byte} (ha : a < n) (h : ∀ c ∈ m, c.1 < n) :
    ∀ c ∈ m.write a b, c.1 < n := by
  intro c hc
  rcases Memory.mem_write hc with rfl | hc
  · exact ha
  · exact h c hc

/-- Reading the written address gives the written byte. -/
@[simp] theorem Memory.read_write_same (m : Memory) (a : Nat) (b : Byte) : (m.write a b).read a = some b := by
  induction m with
  | nil => simp [Memory.write, Memory.read]
  | cons y r ih =>
    obtain ⟨z, c⟩ := y
    simp only [Memory.write]
    split
    next => simp [Memory.read]
    next hge =>
      split
      next => simp [Memory.read]
      next hne =>
        have : ¬ z = a := fun h => hne h.symm
        simp [Memory.read, this, ih]

/-- Reading any other address gives what it gave before. -/
theorem Memory.read_write_other (m : Memory) {a a' : Nat} (b : Byte) (h : a' ≠ a) :
    (m.write a b).read a' = m.read a' := by
  induction m with
  | nil => simp [Memory.write, Memory.read, Ne.symm h]
  | cons y r ih =>
    obtain ⟨z, c⟩ := y
    simp only [Memory.write]
    split
    next => simp [Memory.read, Ne.symm h]
    next =>
      split
      next heq =>
        subst heq
        simp [Memory.read, Ne.symm h]
      next => simp [Memory.read, ih]

/-- The ring read of a written byte. -/
@[simp] theorem ringRead_write_same (m : Memory) (a : Nat) (b : Byte) : ringRead (m.write a b) a = b := by
  simp [ringRead]

/-- The ring read of any other byte. -/
theorem ringRead_write_other (m : Memory) {a a' : Nat} (b : Byte) (h : a' ≠ a) :
    ringRead (m.write a b) a' = ringRead m a' := by
  simp [ringRead, Memory.read_write_other m b h]

end Sys2Proof.Machine
end

