-- ==== Sys2Proof/Laws/PerInstr.lean ====
section
/-! SUPPORT. Per-instruction families. `CarriesCode`: a well-formed instruction's encoding carries its row's code where
the row's format puts it, byte 0 of an operation (30_encoding R90) and byte N of a frame (R80, R84). -/

namespace Sys2Proof.Laws.CarriesCode

open Sys2Proof Sys2Proof.Machine

/-- The byte index of the code in each format. -/
def codeIndex (cfg : Config) : Format → Nat
  | .op => 0
  | .frame => cfg.intronLen

/-- The code of an instruction's row: the identifier of R90, or `TYPE_CODE` of the frame type. -/
def rowCode (c : TypeCodes) : Instr → Byte
  | .deviceInfo _ => c.deviceInfo
  | .clientConfig _ => c.clientConfig
  | .packet _ => c.packet
  | .scanStart _ => c.scanStart
  | .scanStop _ => c.scanStop
  | .scanApGet _ => c.scanApGet
  | .scanApCount _ => c.scanApCount
  | .scanApInfo _ => c.scanApInfo
  | .invalid _ => c.invalid
  | .init => 0x01
  | .reset => 0x02
  | .poll => 0x03
  | .rxByte _ => 0x04
  | .rxFeed _ => 0x05
  | .send _ _ _ => 0x06
  | .joinAp _ _ => 0x07
  | .modeCas _ _ => 0x08
  | .modeRead => 0x09
  | .linkUpRead => 0x0A
  | .tickRead => 0x0B
  | .macRead => 0x0C
  | .apCountRead => 0x0D
  | .apInfoTake => 0x0E
  | .dmaWrite _ => 0x10
  | .uartError => 0x11
  | .txDone _ => 0x12

/-- The encoding carries the row's code at its place. -/
def Statement (i : Instr) : Prop :=
  ∀ cfg : Config, i.wf cfg = true → (encode cfg i)[codeIndex cfg i.format]? = some (rowCode cfg.typeCode i)

/-- The type byte of a frame stands behind its intron. -/
theorem frame_code {cfg : Config} {f : Frame} (t : MsgType) (h : f.wf cfg = true) :
    (encodeFrame cfg t f)[cfg.intronLen]? = some (typeCodeOf cfg.typeCode t) := by
  have h : f.intron.length = cfg.intronLen := by simp_all [Frame.wf]
  simp [encodeFrame, frameBytes, framePrelude, headerBytes, h]

theorem deviceInfo (f : Frame) : Statement (.deviceInfo f) := fun _ h => frame_code .deviceInfo h

theorem clientConfig (f : Frame) : Statement (.clientConfig f) := fun _ h => frame_code .clientConfig h

theorem packet (f : Frame) : Statement (.packet f) := fun _ h => frame_code .packet h

theorem scanStart (f : Frame) : Statement (.scanStart f) := fun _ h => frame_code .scanStart h

theorem scanStop (f : Frame) : Statement (.scanStop f) := fun _ h => frame_code .scanStop h

theorem scanApGet (f : Frame) : Statement (.scanApGet f) := fun _ h => frame_code .scanApGet h

theorem scanApCount (f : Frame) : Statement (.scanApCount f) := fun _ h => frame_code .scanApCount h

theorem scanApInfo (f : Frame) : Statement (.scanApInfo f) := fun _ h => frame_code .scanApInfo h

theorem invalid (f : Frame) : Statement (.invalid f) := fun _ h => frame_code .invalid h

theorem init : Statement .init := fun _ _ => rfl

theorem reset : Statement .reset := fun _ _ => rfl

theorem poll : Statement .poll := fun _ _ => rfl

theorem rxByte (b : Byte) : Statement (.rxByte b) := fun _ _ => rfl

theorem rxFeed (s : List Byte) : Statement (.rxFeed s) := fun _ _ => rfl

theorem send (t v : Byte) (fs : List (List Byte)) : Statement (.send t v fs) := fun _ _ => rfl

theorem joinAp (ssid pass : List Byte) : Statement (.joinAp ssid pass) := fun _ _ => rfl

theorem modeCas (old new : Byte) : Statement (.modeCas old new) := fun _ _ => rfl

theorem modeRead : Statement .modeRead := fun _ _ => rfl

theorem linkUpRead : Statement .linkUpRead := fun _ _ => rfl

theorem tickRead : Statement .tickRead := fun _ _ => rfl

theorem macRead : Statement .macRead := fun _ _ => rfl

theorem apCountRead : Statement .apCountRead := fun _ _ => rfl

theorem apInfoTake : Statement .apInfoTake := fun _ _ => rfl

theorem dmaWrite (b : Byte) : Statement (.dmaWrite b) := fun _ _ => rfl

theorem uartError : Statement .uartError := fun _ _ => rfl

theorem txDone (st : DoneStatus) : Statement (.txDone st) := fun _ _ => rfl

end Sys2Proof.Laws.CarriesCode
end

