-- ==== Sys2Proof/Laws/Resume.lean ====
section
/-! SUPPORT. The continuation steps: what an agent with an operation in progress does, and what it can do at all. -/

namespace Sys2Proof.Machine

open Sys2Proof

/-- A caller with an operation in progress takes that operation's next step. -/
theorem resumeAgent_caller {s : State} {k : Nat} {op : CallerOp} (h1 : s.halted = none) (h2 : s.inited = true)
    (h3 : s.env.agent = .caller k) (h4 : callerOp s k = some op) : resumeAgent s = .next (callerStep k op s) := by
  simp [resumeAgent, h1, h3, h4, mayContinue, h2]

/-- The poller with a POLL or an RX_FEED in progress takes its next step. -/
theorem resumeAgent_poller {s : State} (h1 : s.halted = none) (h2 : s.inited = true) (h3 : s.env.agent = .poller)
    (h4 : agentBusy s = true) : resumeAgent s = .next (pollerStep s) := by
  simp [resumeAgent, h1, h3, h4, h2]

/-- What a continuation step that answers a next state did: nothing, a caller's step, or the poller's. -/
theorem resumeAgent_next {s t : State} (h : resumeAgent s = .next t) :
    s.halted = none ∧
    (t = s ∨
     (∃ k op, s.env.agent = .caller k ∧ callerOp s k = some op ∧ mayContinue s op = true ∧ t = callerStep k op s) ∨
     (s.env.agent = .poller ∧ agentBusy s = true ∧ s.inited = true ∧ t = pollerStep s)) := by
  unfold resumeAgent at h
  split at h
  · cases h
  next h1 =>
    refine ⟨h1, ?_⟩
    split at h
    next k hk =>
      split at h
      · cases h
        exact Or.inl rfl
      next op hop =>
        split at h
        next hm =>
          cases h
          exact Or.inr (Or.inl ⟨k, op, hk, hop, hm, rfl⟩)
        next => cases h
    next ha =>
      split at h
      next hb =>
        split at h
        next hi =>
          cases h
          exact Or.inr (Or.inr ⟨ha, hb, hi, rfl⟩)
        next => cases h
      next =>
        cases h
        exact Or.inl rfl
    all_goals
      cases h
      exact Or.inl rfl

/-- Setting what a caller has in progress to what it already is changes nothing. -/
theorem setCallerOp_same {s : State} {k : Nat} {op : CallerOp} (h : callerOp s k = some op) :
    setCallerOp k (some op) s = s := by
  have hs : s.tasks.callers.set k (some op) = s.tasks.callers := by
    unfold callerOp at h
    rw [List.getD_eq_getElem?_getD] at h
    apply List.ext_getElem?
    intro i
    rw [List.getElem?_set]
    split
    next hi =>
      subst hi
      split
      next hl => simpa [List.getElem?_eq_getElem hl] using h.symm
      next hl => simp [List.getElem?_eq_none (Nat.le_of_not_lt hl)]
    next => rfl
  unfold setCallerOp
  rw [hs]

/-- What a caller has in progress after it was set. -/
theorem callerOp_setCallerOp {s : State} {k : Nat} (op : Option CallerOp) (h : k < s.tasks.callers.length) :
    callerOp (setCallerOp k op s) k = op := by
  simp [callerOp, setCallerOp, h]

/-- Another caller's operation is untouched. -/
theorem callerOp_setCallerOp_other (s : State) {k j : Nat} (op : Option CallerOp) (h : j ≠ k) :
    callerOp (setCallerOp k op s) j = callerOp s j := by
  simp [callerOp, setCallerOp, Ne.symm h]

/-- A caller with something in progress is one of the list. -/
theorem callerOp_lt {s : State} {k : Nat} {op : CallerOp} (h : callerOp s k = some op) : k < s.tasks.callers.length := by
  unfold callerOp at h
  rw [List.getD_eq_getElem?_getD] at h
  by_contra hl
  simp [List.getElem?_eq_none (Nat.le_of_not_lt hl)] at h

end Sys2Proof.Machine
end

