-- ==== Sys2Proof/Laws/Rx.lean ====
section
/-! SUPPORT. What a received byte can do: it leaves the ring, the transmit side, the configuration, the schedule and the
agents' operations alone. One relation says it, and every parser and handler operation is shown to keep it. -/

namespace Sys2Proof.Machine

open Sys2Proof

/-- What reception never changes. -/
structure RxKeeps (s t : State) : Prop where
  cfg : t.cfg = s.cfg
  ring : t.ring = s.ring
  poll : t.poll = s.poll
  tx : t.tx = s.tx
  inited : t.inited = s.inited
  inputs : t.env.inputs = s.env.inputs
  agent : t.env.agent = s.env.agent
  callers : t.tasks.callers = s.tasks.callers
  feed : t.tasks.feed = s.tasks.feed
  returns : t.tasks.returns = s.tasks.returns
  intron : t.sess.intron = s.sess.intron
  lastQuery : t.sess.lastQuery = s.sess.lastQuery
  wireTx : t.out.wireTx = s.out.wireTx

theorem RxKeeps.refl (s : State) : RxKeeps s s :=
  ⟨rfl, rfl, rfl, rfl, rfl, rfl, rfl, rfl, rfl, rfl, rfl, rfl, rfl⟩

theorem RxKeeps.trans {s t u : State} (h : RxKeeps s t) (g : RxKeeps t u) : RxKeeps s u :=
  ⟨g.cfg.trans h.cfg, g.ring.trans h.ring, g.poll.trans h.poll, g.tx.trans h.tx, g.inited.trans h.inited,
   g.inputs.trans h.inputs, g.agent.trans h.agent, g.callers.trans h.callers, g.feed.trans h.feed,
   g.returns.trans h.returns, g.intron.trans h.intron, g.lastQuery.trans h.lastQuery, g.wireTx.trans h.wireTx⟩

theorem RxKeeps.of_rx (s : State) (p : Parser) : RxKeeps s { s with rx := p } :=
  ⟨rfl, rfl, rfl, rfl, rfl, rfl, rfl, rfl, rfl, rfl, rfl, rfl, rfl⟩

theorem RxKeeps.of_emit (s : State) (ev : Event) : RxKeeps s (emit ev s) :=
  ⟨rfl, rfl, rfl, rfl, rfl, rfl, rfl, rfl, rfl, rfl, rfl, rfl, rfl⟩

theorem RxKeeps.of_casMode (s : State) (o n : Mode) : RxKeeps s (casMode o n s) := by
  unfold casMode
  split <;> constructor <;> rfl

theorem RxKeeps.of_releaseChain (s : State) : RxKeeps s (releaseChain s) := by
  unfold releaseChain
  split <;> constructor <;> rfl

theorem RxKeeps.of_deliverChain (s : State) : RxKeeps s (deliverChain s) := by
  unfold deliverChain
  split <;> constructor <;> rfl

theorem RxKeeps.of_setAssociated (s : State) (up : Bool) : RxKeeps s (setAssociated up s) := by
  unfold setAssociated
  split <;> constructor <;> rfl

theorem RxKeeps.of_linkUpMode (s : State) : RxKeeps s (linkUpMode s) := by
  unfold linkUpMode
  split <;> exact RxKeeps.of_casMode _ _ _

theorem RxKeeps.of_linkFlag (s : State) (v : Byte) : RxKeeps s (linkFlag v s) := by
  unfold linkFlag
  split
  · exact (RxKeeps.of_setAssociated s true).trans (RxKeeps.of_linkUpMode _)
  · exact RxKeeps.of_setAssociated s false

theorem RxKeeps.of_markActivity (s : State) : RxKeeps s (markActivity s) :=
  ⟨rfl, rfl, rfl, rfl, rfl, rfl, rfl, rfl, rfl, rfl, rfl, rfl, rfl⟩

theorem RxKeeps.of_endFrame (s : State) : RxKeeps s (endFrame s) := RxKeeps.of_rx s _

theorem RxKeeps.of_startDiscard (n : U16) (s : State) : RxKeeps s (startDiscard n s) := by
  unfold startDiscard
  split
  · exact RxKeeps.of_endFrame s
  · exact RxKeeps.of_rx s _

theorem RxKeeps.of_handleDeviceInfo (payload : List Byte) (s : State) : RxKeeps s (handleDeviceInfo payload s) :=
  RxKeeps.trans (t := { s with sess.mac := some (payload.take 6) })
    ⟨rfl, rfl, rfl, rfl, rfl, rfl, rfl, rfl, rfl, rfl, rfl, rfl, rfl⟩ (RxKeeps.of_casMode _ _ _)

theorem RxKeeps.of_handleApInfo (payload : List Byte) (s : State) : RxKeeps s (handleApInfo payload s) := by
  unfold handleApInfo
  split
  · exact ⟨rfl, rfl, rfl, rfl, rfl, rfl, rfl, rfl, rfl, rfl, rfl, rfl, rfl⟩
  · exact RxKeeps.refl s

/-- The handlers keep it. -/
theorem RxKeeps.of_handle (t : Option MsgType) (ok : Bool) (payload : List Byte) (s : State) :
    RxKeeps s (handle t ok payload s) := by
  unfold handle
  split
  · split
    · split
      · exact RxKeeps.of_handleDeviceInfo payload s
      · exact RxKeeps.of_casMode _ _ _
    · exact ⟨rfl, rfl, rfl, rfl, rfl, rfl, rfl, rfl, rfl, rfl, rfl, rfl, rfl⟩
    · exact RxKeeps.of_handleApInfo payload s
    · split
      · exact (RxKeeps.of_markActivity s).trans (RxKeeps.of_linkFlag _ _)
      · exact ((RxKeeps.of_deliverChain s).trans (RxKeeps.of_markActivity _)).trans (RxKeeps.of_linkFlag _ _)
    · exact RxKeeps.refl s
  · exact (RxKeeps.of_emit s _).trans (RxKeeps.of_releaseChain _)

theorem RxKeeps.of_dispatch (s : State) : RxKeeps s (dispatch s) := RxKeeps.of_handle _ _ _ s

theorem RxKeeps.of_draws (s : State) (d : Draws) : RxKeeps s { s with env.draws := d } :=
  ⟨rfl, rfl, rfl, rfl, rfl, rfl, rfl, rfl, rfl, rfl, rfl, rfl, rfl⟩

theorem RxKeeps.of_packetHeader (s : State) : RxKeeps s (packetHeader s) := by
  unfold packetHeader openChain
  refine (RxKeeps.of_draws s (drawAlloc s.rx.rsize.toNat s.env.draws).2).trans ?_
  split
  · exact RxKeeps.of_startDiscard _ _
  · exact RxKeeps.of_rx _ _

theorem RxKeeps.of_fixedHeader (n : Nat) (s : State) : RxKeeps s (fixedHeader n s) := by
  unfold fixedHeader
  split
  · exact RxKeeps.of_rx s _
  · exact (RxKeeps.of_emit s _).trans (RxKeeps.of_startDiscard _ _)

theorem RxKeeps.of_unknownHeader (s : State) : RxKeeps s (unknownHeader s) :=
  (RxKeeps.of_emit s _).trans (RxKeeps.of_startDiscard _ _)

theorem RxKeeps.of_invalidHeader (s : State) : RxKeeps s (invalidHeader s) := by
  unfold invalidHeader
  split
  · exact (RxKeeps.of_emit s _).trans ⟨rfl, rfl, rfl, rfl, rfl, rfl, rfl, rfl, rfl, rfl, rfl, rfl, rfl⟩
  · exact (RxKeeps.of_emit s _).trans (RxKeeps.of_startDiscard _ _)

theorem RxKeeps.of_headerPath (s : State) : RxKeeps s (headerPath s) := by
  unfold headerPath
  split
  · exact RxKeeps.of_invalidHeader s
  · split
    · exact (RxKeeps.of_dispatch s).trans (RxKeeps.of_endFrame _)
    · exact RxKeeps.of_packetHeader s
  all_goals first | exact RxKeeps.of_unknownHeader s | exact RxKeeps.of_fixedHeader _ s

theorem RxKeeps.of_headerComplete (s : State) : RxKeeps s (headerComplete s) :=
  (RxKeeps.of_rx s (decodeHeader s.rx)).trans (RxKeeps.of_headerPath _)

theorem RxKeeps.of_reportSkipped (s : State) : RxKeeps s (reportSkipped s) := by
  unfold reportSkipped
  split
  · exact RxKeeps.refl s
  · exact ⟨rfl, rfl, rfl, rfl, rfl, rfl, rfl, rfl, rfl, rfl, rfl, rfl, rfl⟩

theorem RxKeeps.of_seekByte (b : Byte) (s : State) : RxKeeps s (seekByte b s) := by
  unfold seekByte
  split
  · split
    · exact ((RxKeeps.of_rx s (matchByte b s.rx)).trans (RxKeeps.of_reportSkipped _)).trans (RxKeeps.of_rx _ _)
    · exact RxKeeps.of_rx s _
  · split <;> exact RxKeeps.of_rx s _

theorem RxKeeps.of_finishPayload (s : State) : RxKeeps s (finishPayload s) := by
  unfold finishPayload
  split
  · exact (RxKeeps.of_dispatch s).trans (RxKeeps.of_endFrame _)
  · exact RxKeeps.refl s

theorem RxKeeps.of_finishDiscard (s : State) : RxKeeps s (finishDiscard s) := by
  unfold finishDiscard
  split
  · exact RxKeeps.of_endFrame s
  · exact RxKeeps.refl s

/-- A received byte keeps it, in every parser state. -/
theorem RxKeeps.of_rxByte (b : Byte) (s : State) : RxKeeps s (rxByte b s) := by
  unfold rxByte
  split
  · exact RxKeeps.of_seekByte b s
  · unfold headerByte
    split
    · exact (RxKeeps.of_rx s { collectByte b s.rx with hpos := 0 }).trans (RxKeeps.of_headerComplete _)
    · exact RxKeeps.of_rx s _
  · exact (RxKeeps.of_rx s (countByte (bufferPut b s.rx))).trans (RxKeeps.of_finishPayload _)
  · exact (RxKeeps.of_rx s (countByte (chainWrite b s.rx))).trans (RxKeeps.of_finishPayload _)
  · exact (RxKeeps.of_rx s (countByte s.rx)).trans (RxKeeps.of_finishDiscard _)

/-- So do bytes fed one after the other. -/
theorem RxKeeps.of_rxAll (bs : List Byte) (s : State) : RxKeeps s (rxAll bs s) := by
  induction bs generalizing s with
  | nil => exact RxKeeps.refl s
  | cons b bs ih =>
    unfold rxAll
    split
    · exact RxKeeps.refl s
    · exact (RxKeeps.of_rxByte b s).trans (ih _)

/-- A halted block is fed nothing (42_rx_parser R170). -/
theorem rxAll_halted (bs : List Byte) {s : State} (h : s.halted.isSome = true) : rxAll bs s = s := by
  cases bs <;> simp [rxAll, h]

/-- Feeding a byte, then the rest. -/
theorem rxAll_cons (b : Byte) (bs : List Byte) {s : State} (h : s.halted = none) :
    rxAll (b :: bs) s = rxAll bs (rxByte b s) := by
  simp [rxAll, h]

/-- Feeding one sequence, then another, is feeding them joined (42_rx_parser R168). -/
theorem rxAll_append (a b : List Byte) (s : State) : rxAll (a ++ b) s = rxAll b (rxAll a s) := by
  induction a generalizing s with
  | nil => rfl
  | cons x a ih =>
    simp only [List.cons_append, rxAll]
    split
    next h => rw [rxAll_halted b h]
    next h => exact ih _

end Sys2Proof.Machine
end

