-- ==== Sys2Proof/Laws/RxOuter.lean ====
section
/-! SUPPORT. What a received byte does not even read: the ring, the poll and transmit registers, the schedule, the agents'
operations in progress, what is on the wire. Replacing them before the byte or after it comes to the same. -/

namespace Sys2Proof.Machine

open Sys2Proof

/-- The parts of a state that reception neither reads nor writes. -/
structure Outer where
  ring : Ring
  poll : Option PollCtx
  tx : Tx
  callers : List (Option CallerOp)
  feed : List Byte
  returns : List (Agent × Result)
  inputs : List Input
  agent : Agent
  wireTx : List Byte

/-- The state with those parts replaced. -/
def withOuter (o : Outer) (s : State) : State :=
  { s with
    ring := o.ring, poll := o.poll, tx := o.tx
    tasks := { s.tasks with callers := o.callers, feed := o.feed, returns := o.returns }
    env := { s.env with inputs := o.inputs, agent := o.agent }
    out := { s.out with wireTx := o.wireTx } }

/-- The parts of a state, as it has them. -/
def outerOf (s : State) : Outer :=
  { ring := s.ring, poll := s.poll, tx := s.tx, callers := s.tasks.callers, feed := s.tasks.feed
    returns := s.tasks.returns, inputs := s.env.inputs, agent := s.env.agent, wireTx := s.out.wireTx }

@[simp] theorem withOuter_outerOf (s : State) : withOuter (outerOf s) s = s := rfl

variable (o : Outer) (s : State)

theorem releaseChain_outer : releaseChain (withOuter o s) = withOuter o (releaseChain s) := by
  simp only [releaseChain, withOuter]
  split <;> rfl

theorem deliverChain_outer : deliverChain (withOuter o s) = withOuter o (deliverChain s) := by
  simp only [deliverChain, withOuter]
  split <;> rfl

theorem casMode_outer (a b : Mode) : casMode a b (withOuter o s) = withOuter o (casMode a b s) := by
  by_cases h : s.sess.mode = a <;> simp only [casMode, withOuter, h, if_true, if_false]

theorem setAssociated_outer (up : Bool) : setAssociated up (withOuter o s) = withOuter o (setAssociated up s) := by
  by_cases h : up = s.sess.associated <;> simp only [setAssociated, withOuter, h, if_true, if_false] <;> rfl

theorem linkUpMode_outer : linkUpMode (withOuter o s) = withOuter o (linkUpMode s) := by
  unfold linkUpMode
  rw [casMode_outer, casMode_outer, apply_ite (withOuter o)]
  rfl

theorem linkFlag_outer (v : Byte) : linkFlag v (withOuter o s) = withOuter o (linkFlag v s) := by
  unfold linkFlag
  rw [setAssociated_outer, setAssociated_outer, linkUpMode_outer, apply_ite (withOuter o)]

theorem handle_outer (t : Option MsgType) (ok : Bool) (payload : List Byte) :
    handle t ok payload (withOuter o s) = withOuter o (handle t ok payload s) := by
  unfold handle
  split
  · split
    · rw [show (withOuter o s).rx = s.rx from rfl, show (withOuter o s).cfg = s.cfg from rfl]
      split
      · exact casMode_outer o { s with sess.mac := some (payload.take 6) } _ _
      · exact casMode_outer o s _ _
    · rfl
    · by_cases h : s.sess.lastQuery = some s.rx.rvar <;> simp only [handleApInfo, withOuter, h, if_true, if_false]
    · rw [show (withOuter o s).rx = s.rx from rfl]
      split
      · exact linkFlag_outer o (markActivity s) _
      · unfold handlePacket
        rw [deliverChain_outer]
        exact linkFlag_outer o (markActivity (deliverChain s)) _
    · rfl
  · exact releaseChain_outer o (emit (.crcMismatch s.rx.rtype) s)

theorem dispatch_outer : dispatch (withOuter o s) = withOuter o (dispatch s) := handle_outer o s _ _ _

theorem startDiscard_outer (n : U16) : startDiscard n (withOuter o s) = withOuter o (startDiscard n s) := by
  simp only [startDiscard, withOuter]
  split <;> rfl

theorem openChain_outer (a : Option (List Nat)) : openChain a (withOuter o s) = withOuter o (openChain a s) := by
  cases a with
  | none => exact startDiscard_outer o s _
  | some lens => rfl

theorem headerPath_outer : headerPath (withOuter o s) = withOuter o (headerPath s) := by
  have fixed : ∀ n, fixedHeader n (withOuter o s) = withOuter o (fixedHeader n s) := by
    intro n
    simp only [fixedHeader, show (withOuter o s).rx = s.rx from rfl]
    split
    · rfl
    · exact startDiscard_outer o (emit _ s) _
  have unknown : unknownHeader (withOuter o s) = withOuter o (unknownHeader s) := startDiscard_outer o (emit _ s) _
  unfold headerPath
  simp only [show (withOuter o s).rx = s.rx from rfl, show (withOuter o s).cfg = s.cfg from rfl]
  split
  · simp only [invalidHeader, show (withOuter o s).rx = s.rx from rfl, show (withOuter o s).cfg = s.cfg from rfl]
    split
    · rfl
    · exact startDiscard_outer o (emit _ s) _
  · split
    · rw [dispatch_outer]
      rfl
    · exact openChain_outer o { s with env.draws := (drawAlloc s.rx.rsize.toNat s.env.draws).2 } _
  all_goals first | exact fixed _ | exact unknown

theorem finishPayload_outer : finishPayload (withOuter o s) = withOuter o (finishPayload s) := by
  simp only [finishPayload, show (withOuter o s).rx = s.rx from rfl]
  split
  · rw [dispatch_outer]
    rfl
  · rfl

/-- A received byte reads none of those parts, and writes none. -/
theorem rxByte_outer (b : Byte) : rxByte b (withOuter o s) = withOuter o (rxByte b s) := by
  unfold rxByte
  simp only [show (withOuter o s).rx = s.rx from rfl]
  split
  · simp only [seekByte, show (withOuter o s).rx = s.rx from rfl, show (withOuter o s).sess = s.sess from rfl,
      show (withOuter o s).cfg = s.cfg from rfl]
    split
    · split
      · simp only [reportSkipped]
        split <;> rfl
      · rfl
    · split <;> rfl
  · simp only [headerByte, show (withOuter o s).rx = s.rx from rfl]
    split
    · exact headerPath_outer o { s with rx := decodeHeader { collectByte b s.rx with hpos := 0 } }
    · rfl
  · exact finishPayload_outer o { s with rx := countByte (bufferPut b s.rx) }
  · exact finishPayload_outer o { s with rx := countByte (chainWrite b s.rx) }
  · simp only [discardByte, finishDiscard, show (withOuter o s).rx = s.rx from rfl]
    split <;> rfl

/-- So do bytes fed one after the other. -/
theorem rxAll_outer (bs : List Byte) : rxAll bs (withOuter o s) = withOuter o (rxAll bs s) := by
  induction bs generalizing s with
  | nil => rfl
  | cons b bs ih =>
    unfold rxAll
    rw [show (withOuter o s).halted = s.halted from rfl, rxByte_outer, ih, apply_ite (withOuter o)]

/-- What a received byte leaves of those parts is what was there. -/
theorem outerOf_rxByte (b : Byte) : outerOf (rxByte b s) = outerOf s := by
  have h := RxKeeps.of_rxByte b s
  simp only [outerOf, h.ring, h.poll, h.tx, h.callers, h.feed, h.returns, h.inputs, h.agent, h.wireTx]

/-- So of bytes fed one after the other. -/
theorem outerOf_rxAll (bs : List Byte) : outerOf (rxAll bs s) = outerOf s := by
  have h := RxKeeps.of_rxAll bs s
  simp only [outerOf, h.ring, h.poll, h.tx, h.callers, h.feed, h.returns, h.inputs, h.agent, h.wireTx]

end Sys2Proof.Machine
end

