-- ==== Sys2Proof/Laws/Step.lean ====
section
/-! SUPPORT. What a step can do at all, and what an instruction's first step does where it answers a next state. -/

namespace Sys2Proof.Machine

open Sys2Proof

/-- What bytes of the wire format do that decode to nothing is what an RX_FEED of them does (30_encoding R87, R93). -/
theorem undecoded_frame (bytes : List Byte) (e : DecodeError) (s : State) :
    undecoded .frame bytes e s = exec (.rxFeed bytes) s := rfl

/-- A step that answers a next state did nothing, or was a continuation, or ran an instruction: the decoded one, or the
RX_FEED of wire bytes that decode to none. -/
theorem step_next {s t : State} (h : step s = .next t) :
    s.halted = none ∧
    ((s.env.inputs = [] ∧ t = s) ∨
     (∃ a rest, s.env.inputs = { agent := a, act := .resume } :: rest ∧
       resumeAgent (takeInput { agent := a, act := .resume } rest s) = .next t) ∨
     (∃ a fmt bytes rest i, s.env.inputs = { agent := a, act := .issue fmt bytes } :: rest ∧
       ((∃ tail, decode s.cfg fmt bytes = .ok (i, tail)) ∨ i = .rxFeed bytes) ∧
       exec i (takeInput { agent := a, act := .issue fmt bytes } rest s) = .next t)) := by
  unfold step at h
  split at h
  · cases h
  next h1 =>
    refine ⟨h1, ?_⟩
    split at h
    next h2 =>
      cases h
      exact Or.inl ⟨h2, rfl⟩
    next inp rest h2 =>
      obtain ⟨a, act⟩ := inp
      dsimp only at h
      split at h
      next => exact Or.inr (Or.inl ⟨a, rest, h2, h⟩)
      next fmt bytes =>
        split at h
        next i tail h4 => exact Or.inr (Or.inr ⟨a, fmt, bytes, rest, i, h2, Or.inl ⟨tail, h4⟩, h⟩)
        next =>
          cases fmt
          · cases h
          · exact Or.inr (Or.inr ⟨a, .frame, bytes, rest, .rxFeed bytes, h2, Or.inr rfl, h⟩)

/-- The effect of an instruction's first step, where no condition stops it. -/
def firstStep : Instr → State → State
  | .deviceInfo f, s => feedStep { s with tasks.feed := encodeFrame s.cfg .deviceInfo f }
  | .clientConfig f, s => feedStep { s with tasks.feed := encodeFrame s.cfg .clientConfig f }
  | .packet f, s => feedStep { s with tasks.feed := encodeFrame s.cfg .packet f }
  | .scanStart f, s => feedStep { s with tasks.feed := encodeFrame s.cfg .scanStart f }
  | .scanStop f, s => feedStep { s with tasks.feed := encodeFrame s.cfg .scanStop f }
  | .scanApGet f, s => feedStep { s with tasks.feed := encodeFrame s.cfg .scanApGet f }
  | .scanApCount f, s => feedStep { s with tasks.feed := encodeFrame s.cfg .scanApCount f }
  | .scanApInfo f, s => feedStep { s with tasks.feed := encodeFrame s.cfg .scanApInfo f }
  | .invalid f, s => feedStep { s with tasks.feed := encodeFrame s.cfg .invalid f }
  | .init, s => if initEnabled s then initNow s else setCallerOp (callerIndex s) (some .initWait) s
  | .reset, s => if resetEnabled s then resetNow s else setCallerOp (callerIndex s) (some .resetWait) s
  | .poll, s => pollBegin s
  | .rxByte b, s => rxByte b s
  | .rxFeed bytes, s => feedStep { s with tasks.feed := bytes }
  | .send t v frags, s => stepAcquire (callerIndex s) (.send t v frags) s
  | .joinAp ssid pass, s => stepAcquire (callerIndex s) (.join ssid pass) s
  | .modeCas old new, s => modeCas old new s
  | .modeRead, s => giveResult s.env.agent (.byte (modeCode s.sess.mode)) s
  | .linkUpRead, s => giveResult s.env.agent (.bool s.sess.associated) s
  | .tickRead, s => giveResult s.env.agent (.bool s.sess.activity) { s with sess.activity := false }
  | .macRead, s => giveResult s.env.agent (.mac s.sess.mac) s
  | .apCountRead, s => giveResult s.env.agent (.byte s.sess.apCount) s
  | .apInfoTake, s => giveResult s.env.agent (.apInfo s.sess.apSlot) { s with sess.apSlot := none }
  | .dmaWrite b, s =>
    { s with ring.mem := s.ring.mem.write s.ring.wpos b, ring.wpos := (s.ring.wpos + 1) % s.cfg.ringSize }
  | .uartError, s => if s.ring.irqEn then uartErrorSeen s else s
  | .txDone st, s => txDone st s

/-- An instruction that answers a next state began under its conditions (its row's agent, that agent idle, no fatal
stop, INITED but for INIT) and its first step is `firstStep`. -/
theorem exec_next {i : Instr} {s t : State} (h : exec i s = .next t) :
    s.halted = none ∧ (i ≠ .init → s.inited = true) ∧ agentAllowed s.cfg (agentColumn i) s.env.agent = true ∧
    agentBusy s = false ∧ (∀ b, i = .dmaWrite b → s.ring.wpos < s.cfg.ringSize) ∧ t = firstStep i s := by
  have ready : ∀ {c : AgentClass} {body : State → Answer}, enter c s body = .next t →
      s.halted = none ∧ (i ≠ .init → s.inited = true) ∧ agentAllowed s.cfg c s.env.agent = true ∧
        agentBusy s = false ∧ body s = .next t := by
    intro c body hb
    obtain ⟨⟨h1, h2, h3, h4⟩, h5⟩ := enter_next hb
    exact ⟨h1, fun _ => h2, h3, h4, h5⟩
  cases i
  case init =>
    unfold exec execInit at h
    obtain ⟨h1, h3, h4, h5⟩ := enterAlways_next h
    injection h5 with h5
    exact ⟨h1, fun hn => absurd rfl hn, h3, h4, fun b hb => (by cases hb), h5.symm⟩
  case dmaWrite b =>
    obtain ⟨h1, h2, h3, h4, h5⟩ := ready h
    dsimp only at h5
    split at h5
    next hw =>
      injection h5 with h5
      exact ⟨h1, h2, h3, h4, fun _ _ => hw, h5.symm⟩
    next => cases h5
  case uartError =>
    obtain ⟨h1, h2, h3, h4, h5⟩ := ready h
    refine ⟨h1, h2, h3, h4, fun b hb => (by cases hb), ?_⟩
    simp only [firstStep]
    split at h5 <;> injection h5 with h5
    next hi => rw [if_pos hi, h5]
    next hi => rw [if_neg hi, h5]
  all_goals
    obtain ⟨h1, h2, h3, h4, h5⟩ := ready h
    injection h5 with h5
    exact ⟨h1, h2, h3, h4, fun b hb => (by cases hb), h5.symm⟩

end Sys2Proof.Machine
end

