-- ==== Sys2Proof/Tests/Slice0.lean ====
section
/-! SUPPORT. The modeller's own tests, on fixed values. Expected values come from 95_test_vectors and from the encoding
tables of 30_encoding, named at each test; the witnesses at the end show that the statements' hypotheses can be met. -/

namespace Sys2Proof.Tests

open Sys2Proof Sys2Proof.Machine

/-! ## Helpers -/

/-- The intron `I` of 95_test_vectors section 0. -/
def intronI : List Byte := [0x55, 0x4E, 0x10, 0x20, 0x30, 0x40, 0x50, 0x60]

/-- The intron of the NEWI frames of 95_test_vectors section 0. -/
def intronJ : List Byte := [0x55, 0x4E, 0x01, 0x02, 0x03, 0x04, 0x05, 0x06]

/-- A frame under the intron `I`. -/
def frameI (var : Byte) (checksum : U32) (payload : List Byte) : Frame :=
  { intron := intronI, var := var, checksum := checksum, payload := payload }

/-- State S0 of 95_test_vectors section 0, with the next step an agent's. -/
def s0 (a : Agent) : State :=
  { State.reset with
    sess := { State.reset.sess with mode := .waitInit, intron := intronI }
    ring := { State.reset.ring with irqEn := true }
    inited := true
    env := { State.reset.env with agent := a } }

/-- A state in a mode. -/
def inMode (m : Mode) (s : State) : State := { s with sess := { s.sess with mode := m } }

/-- A state whose next allocation answers with these fragment lengths, or fails. -/
def allocating (a : Option (List Nat)) (s : State) : State :=
  { s with env := { s.env with draws := { s.env.draws with allocs := [a] } } }

/-- A state with the writer lock held by `CALLER(0)` at a step of a job. -/
def holding (job : TxJob) (stage : TxStage) (s : State) : State :=
  { s with tx := { s.tx with lock := some 0 }
           tasks := { s.tasks with callers := [some (.tx job stage), none] } }

/-- A JOIN_AP at S1, its fresh intron drawn. -/
def joiningWith (job : TxJob) : State :=
  { holding job .build (s0 (.caller 0)) with
    tx := { lock := some 0, pending := false, seq := none, pendingIntron := some intronJ } }

/-- The SEND of T-TX-2. -/
def sendJob : TxJob := .send 0x02 0x00 [[0x01, 0x02], [0x03, 0x04, 0x05]]

/-- The JOIN_AP of T-TX-5. -/
def joinJob : TxJob := .join [0x61, 0x62] [0x78, 0x79, 0x7A]

/-- A send of the chunks `[01 02]`, `[03]` that stands at one of them. -/
def seqAt (k : Nat) (cur : Option (List Byte)) (st : TxStatus) : TxSeq :=
  { chunks := [[0x01, 0x02], [0x03]], k := k, cur := cur, status := st }

/-- A state with a chunk in flight. -/
def inFlight (s : State) : State :=
  { holding sendJob .resume s with
    tx := { lock := some 0, pending := true, seq := some (seqAt 0 (some [0x01, 0x02]) .running), pendingIntron := none } }

/-- A state with the parser in a resting state, `n` payload bytes to come. -/
def parsing (p : PState) (n : U16) (s : State) : State := { s with rx := { s.rx with pstate := p, remain := n } }

/-- The bytes of a frame, fed to the parser. -/
def receiving (i : Instr) (s : State) : State := rxAll (encode s.cfg i) s

/-- Whether a step answers a next state with a property. -/
def gives (a : Answer) (p : State → Bool) : Bool :=
  match a with
  | .next t => p t
  | .fault _ => false
  | .refused _ => false

/-! ## WellFormed: an ill-formed term for each check -/

/-- An intron of 7 bytes (30_encoding R80: N bytes). -/
theorem test_wf_refuses_short_intron :
    (Instr.packet { intron := intronI.take 7, var := 0, checksum := 0, payload := [] }).wf vectorConfig = false := by decide

/-- An intron of 9 bytes. -/
theorem test_wf_refuses_long_intron :
    (Instr.deviceInfo { intron := intronI ++ [0], var := 0, checksum := 0, payload := [] }).wf vectorConfig = false := by
  decide

/-- A frame under `I` is well formed up to a payload of 65535 bytes, and not beyond (00_scope R8). -/
theorem test_wf_payload_bound (n : Nat) :
    (Instr.packet (frameI 0 0 (List.replicate n 0))).wf vectorConfig = decide (n ≤ 65535) := by
  simp [Instr.wf, Frame.wf, frameI, intronI, vectorConfig]

/-- A payload of 65536 bytes. -/
theorem test_wf_refuses_long_payload :
    (Instr.packet (frameI 0 0 (List.replicate 65536 0))).wf vectorConfig = false := test_wf_payload_bound 65536

/-! ## Decoding: one word for each row, written from 30_encoding R80, R84, R90 -/

theorem test_decode_device_info :
    decode vectorConfig .frame [0x55, 0x4E, 0x10, 0x20, 0x30, 0x40, 0x50, 0x60, 0x00, 0x0B, 0x00, 0x06, 0xF2, 0xFA, 0x2D, 0x29,
      0x02, 0x00, 0x00, 0xAA, 0xBB, 0xCC] =
    .ok (.deviceInfo (frameI 0x0B 0xF2FA2D29 [0x02, 0x00, 0x00, 0xAA, 0xBB, 0xCC]), []) := by decide

theorem test_decode_clientconfig :
    decode vectorConfig .frame [0x55, 0x4E, 0x10, 0x20, 0x30, 0x40, 0x50, 0x60, 0x01, 0x00, 0x00, 0x01, 0x4A, 0x83, 0x9D, 0xBD,
      0x55] = .ok (.clientConfig (frameI 0x00 0x4A839DBD [0x55]), []) := by decide

theorem test_decode_packet :
    decode vectorConfig .frame [0x55, 0x4E, 0x10, 0x20, 0x30, 0x40, 0x50, 0x60, 0x02, 0x01, 0x00, 0x04, 0xC7, 0xE3, 0xB4, 0xFE,
      0xDE, 0xAD, 0xBE, 0xEF] = .ok (.packet (frameI 0x01 0xC7E3B4FE [0xDE, 0xAD, 0xBE, 0xEF]), []) := by decide

theorem test_decode_scan_start :
    decode vectorConfig .frame [0x55, 0x4E, 0x10, 0x20, 0x30, 0x40, 0x50, 0x60, 0x03, 0x00, 0x00, 0x00, 0xB8, 0xA3, 0x2C, 0x81] =
      .ok (.scanStart (frameI 0x00 0xB8A32C81 []), []) := by decide

theorem test_decode_scan_stop :
    decode vectorConfig .frame [0x55, 0x4E, 0x10, 0x20, 0x30, 0x40, 0x50, 0x60, 0x04, 0x00, 0x00, 0x00, 0x25, 0x74, 0x14, 0x38] =
      .ok (.scanStop (frameI 0x00 0x25741438 []), []) := by decide

theorem test_decode_scan_ap_get :
    decode vectorConfig .frame [0x55, 0x4E, 0x10, 0x20, 0x30, 0x40, 0x50, 0x60, 0x05, 0x02, 0x00, 0x00, 0x9E, 0x4C, 0xA7, 0x33] =
      .ok (.scanApGet (frameI 0x02 0x9E4CA733 []), []) := by decide

theorem test_decode_scan_ap_count :
    decode vectorConfig .frame [0x55, 0x4E, 0x10, 0x20, 0x30, 0x40, 0x50, 0x60, 0x06, 0x00, 0x00, 0x01, 0xE9, 0x94, 0xB5, 0xA9,
      0x05] = .ok (.scanApCount (frameI 0x00 0xE994B5A9 [0x05]), []) := by decide

theorem test_decode_scan_ap_info :
    decode vectorConfig .frame [0x55, 0x4E, 0x10, 0x20, 0x30, 0x40, 0x50, 0x60, 0x07, 0x02, 0x00, 0x04, 0x85, 0x1A, 0xF9, 0x47,
      0x41, 0x42, 0xC4, 0x03] = .ok (.scanApInfo (frameI 0x02 0x851AF947 [0x41, 0x42, 0xC4, 0x03]), []) := by decide

/-- The byte behind the frame is left over. -/
theorem test_decode_invalid :
    decode vectorConfig .frame [0x55, 0x4E, 0x10, 0x20, 0x30, 0x40, 0x50, 0x60, 0x08, 0x00, 0x00, 0x01, 0xAF, 0x1D, 0xD4, 0xA7,
      0x99, 0x77] = .ok (.invalid (frameI 0x00 0xAF1DD4A7 [0x99]), [0x77]) := by decide

theorem test_decode_operations_without_operands :
    decode vectorConfig .op [0x01] = .ok (.init, []) ∧ decode vectorConfig .op [0x02] = .ok (.reset, []) ∧
    decode vectorConfig .op [0x03] = .ok (.poll, []) ∧ decode vectorConfig .op [0x09] = .ok (.modeRead, []) ∧
    decode vectorConfig .op [0x0A] = .ok (.linkUpRead, []) ∧ decode vectorConfig .op [0x0B] = .ok (.tickRead, []) ∧
    decode vectorConfig .op [0x0C] = .ok (.macRead, []) ∧ decode vectorConfig .op [0x0D] = .ok (.apCountRead, []) ∧
    decode vectorConfig .op [0x0E] = .ok (.apInfoTake, []) ∧ decode vectorConfig .op [0x11] = .ok (.uartError, []) := by
  decide

/-- Identifiers from R90; the operands in the form of log entry 10. -/
theorem test_decode_operations_with_operands :
    decode vectorConfig .op [0x04, 0x7E] = .ok (.rxByte 0x7E, []) ∧
    decode vectorConfig .op [0x05, 0x01, 0xAA, 0x01, 0xBB, 0x00] = .ok (.rxFeed [0xAA, 0xBB], []) ∧
    decode vectorConfig .op [0x06, 0x02, 0x07, 0x02, 0x01, 0x0A, 0x02, 0x02, 0x01, 0x0B, 0x00, 0xFF] =
      .ok (.send 0x02 0x07 [[0x0A], [], [0x0B]], [0xFF]) ∧
    decode vectorConfig .op [0x07, 0x01, 0x61, 0x00, 0x01, 0x78, 0x01, 0x79, 0x00] = .ok (.joinAp [0x61] [0x78, 0x79], []) ∧
    decode vectorConfig .op [0x08, 0x04, 0x05] = .ok (.modeCas 0x04 0x05, []) ∧
    decode vectorConfig .op [0x10, 0xAA] = .ok (.dmaWrite 0xAA, []) ∧
    decode vectorConfig .op [0x12, 0x00] = .ok (.txDone .ok, []) ∧
    decode vectorConfig .op [0x12, 0x01] = .ok (.txDone .fail, []) := by decide

/-- 93 U2: an identifier outside the table; R87: a type byte outside `TYPE_CODE`; operands that end early or have no form. -/
theorem test_decode_refuses :
    decode vectorConfig .op [0x0F] = .error (.unlistedOperation 0x0F) ∧
    decode vectorConfig .op [0x00] = .error (.unlistedOperation 0x00) ∧
    decode vectorConfig .op [0x13] = .error (.unlistedOperation 0x13) ∧ decode vectorConfig .op [] = .error .empty ∧
    decode vectorConfig .op [0x08, 0x04] = .error .truncatedOperand ∧
    decode vectorConfig .op [0x05, 0x03] = .error .badOperand ∧ decode vectorConfig .op [0x12, 0x02] = .error .badOperand ∧
    decode vectorConfig .frame [0x55, 0x4E, 0x10, 0x20, 0x30, 0x40, 0x50, 0x60, 0x42, 0x00, 0x00, 0x00, 0, 0, 0, 0] =
      .error (.unlistedType 0x42) ∧
    decode vectorConfig .frame [0x55, 0x4E, 0x10, 0x20, 0x30, 0x40, 0x50, 0x60, 0x02, 0x00, 0x00, 0x01, 0, 0, 0, 0] =
      .error .truncatedFrame := by decide

/-! ## The codec -/

/-- T-CODEC-4 and F_CLIENTCONFIG. -/
theorem test_build_frame :
    buildFrame isoHdlc intronI 0x02 0x01 [0xDE, 0xAD, 0xBE, 0xEF] =
      [0x55, 0x4E, 0x10, 0x20, 0x30, 0x40, 0x50, 0x60, 0x02, 0x01, 0x00, 0x04, 0xC7, 0xE3, 0xB4, 0xFE, 0xDE, 0xAD, 0xBE, 0xEF] ∧
    buildFrame isoHdlc intronI 0x01 0x00 (clientConfigPayload intronJ [0x61, 0x62] [0x78, 0x79, 0x7A]) =
      [0x55, 0x4E, 0x10, 0x20, 0x30, 0x40, 0x50, 0x60, 0x01, 0x00, 0x00, 0x0F, 0x4A, 0x83, 0x9D, 0xBD,
       0x55, 0x4E, 0x01, 0x02, 0x03, 0x04, 0x05, 0x06, 0x02, 0x61, 0x62, 0x03, 0x78, 0x79, 0x7A] := by decide +kernel

/-- The unreflected order, by the published check value of CRC-32/BZIP2 (general knowledge, not in spec/), and the same with
its bits reversed at the end, by hand. -/
theorem test_unreflected_checksum :
    crcFn (.params { order := .unreflected, poly := 0x04C11DB7, start := 0xFFFFFFFF, reverseOut := false, xorOut := 0xFFFFFFFF })
      [0x31, 0x32, 0x33, 0x34, 0x35, 0x36, 0x37, 0x38, 0x39] = 0xFC891918 ∧
    crcFn (.params { order := .unreflected, poly := 0x04C11DB7, start := 0xFFFFFFFF, reverseOut := true, xorOut := 0xFFFFFFFF })
      [0x31, 0x32, 0x33, 0x34, 0x35, 0x36, 0x37, 0x38, 0x39] = 0x1898913F := by decide +kernel

/-- T-TX-2: the chunks of F_PKT5, and T-TX-3: empty fragments make none. -/
theorem test_send_chunks :
    sendChunks vectorConfig intronI 0x02 0x00 [[0x01, 0x02], [0x03, 0x04, 0x05]] =
      [[0x55, 0x4E, 0x10, 0x20, 0x30, 0x40, 0x50, 0x60, 0x02, 0x00, 0x00, 0x05, 0x91, 0xFD, 0x52, 0x29],
       [0x01, 0x02], [0x03, 0x04, 0x05]] ∧
    (sendChunks vectorConfig intronI 0x02 0x00 [[], [0x01, 0x02], []]).length = 2 := by decide +kernel

/-- T-CODEC-7: the checksum over any split of the payload. -/
theorem test_fragment_walk :
    frameCrcWalk isoHdlc intronI [0x02, 0x00, 0x00, 0x05] [[0x01, 0x02], [0x03, 0x04, 0x05]] = 0x91FD5229 ∧
    frameCrcWalk isoHdlc intronI [0x02, 0x00, 0x00, 0x05] [[0x01], [], [0x02, 0x03, 0x04, 0x05]] = 0x91FD5229 := by
  decide +kernel

/-- T-CODEC-10. -/
theorem test_byte_order : be16 0x0102 = [0x01, 0x02] ∧ unbe32 0xC7 0xE3 0xB4 0xFE = 0xC7E3B4FE := by decide

/-! ## Frames -/

/-- 30_encoding R94, 42_rx_parser R170: the first byte in the issuing step, the rest to come. -/
theorem test_frame_begins_its_feed :
    gives (exec (.scanStart (frameI 0x00 0xB8A32C81 [])) (s0 .poller)) (fun t => t.rx.ipos == 1 &&
      t.tasks.feed == [0x4E, 0x10, 0x20, 0x30, 0x40, 0x50, 0x60, 0x03, 0x00, 0x00, 0x00, 0xB8, 0xA3, 0x2C, 0x81]) = true := by
  decide

/-- T-RX-5, and T-RX-5b with another version. -/
theorem test_device_info :
    (let t := receiving (.deviceInfo (frameI 0x0B 0xF2FA2D29 [0x02, 0x00, 0x00, 0xAA, 0xBB, 0xCC])) (s0 .poller)
     t.sess.mode = .needAp ∧ t.sess.mac = some [0x02, 0x00, 0x00, 0xAA, 0xBB, 0xCC] ∧ t.sess.activity = false ∧
      t.rx.pstate = .seekingIntron) ∧
    (let t := receiving (.deviceInfo (frameI 0x0A 0xE581396A [0x02, 0x00, 0x00, 0xAA, 0xBB, 0xCC])) (s0 .poller)
     t.sess.mode = .wrongFirmware ∧ t.sess.mac = none) := by decide +kernel

/-- T-RX-1, with the fragments of T-RX-14. -/
theorem test_packet :
    let t := receiving (.packet (frameI 0x01 0xC7E3B4FE [0xDE, 0xAD, 0xBE, 0xEF]))
      (allocating (some [3, 1]) (inMode .connectingAp (s0 .poller)))
    t.out.delivered = [[0xDE, 0xAD, 0xBE, 0xEF]] ∧ t.sess.activity = true ∧ t.sess.associated = true ∧
    t.out.netifLink = [.linkUp] ∧ t.sess.mode = .running ∧ t.rx.chain = none ∧ t.out.events = [] := by decide +kernel

/-- T-RX-12: the payload's first bit flipped. -/
theorem test_packet_bad_checksum :
    let t := receiving (.packet (frameI 0x01 0xC7E3B4FE [0xDF, 0xAD, 0xBE, 0xEF])) (allocating (some [4]) (s0 .poller))
    t.out.events = [.crcMismatch 0x02] ∧ t.out.delivered = [] ∧ t.sess.activity = false ∧
    t.tasks.released = [[[0xDF, 0xAD, 0xBE, 0xEF]]] := by decide +kernel

/-- 43_rx_handlers R193, its example. -/
theorem test_ap_count :
    (receiving (.scanApCount (frameI 0x00 0xE994B5A9 [0x05])) (s0 .poller)).sess.apCount = 5 := by decide +kernel

/-- T-RX-7: index 2 asked; its record is kept, that of index 3 is not. -/
theorem test_ap_info :
    (receiving (.scanApInfo (frameI 0x02 0x851AF947 [0x41, 0x42, 0xC4, 0x03]))
      { s0 .poller with sess := { (s0 .poller).sess with lastQuery := some 2 } }).sess.apSlot =
      some (0x02, [0x41, 0x42, 0xC4, 0x03]) ∧
    (let t := receiving (.scanApInfo (frameI 0x03 0x236DF2F3 [0x41, 0x42, 0xC4, 0x03]))
       { s0 .poller with sess := { (s0 .poller).sess with lastQuery := some 2 } }
     t.sess.apSlot = none ∧ t.out.events = []) := by decide +kernel

/-- T-RX-10, and T-RX-10b in a debug build. -/
theorem test_invalid :
    (let t := receiving (.invalid (frameI 0x00 0xAF1DD4A7 [0x99])) (s0 .poller)
     t.out.events = [.protocolError 1] ∧ t.rx.pstate = .seekingIntron ∧ t.halted = none) ∧
    (let t := receiving (.invalid (frameI 0x00 0x6FA2AB80 []))
       { s0 .poller with cfg := { vectorConfig with debugBuild := true } }
     t.out.events = [.protocolError 0] ∧ t.halted = some .invalidMessage) := by decide +kernel

/-- T-RX-8b and 43_rx_handlers R200, for the four types that the block only sends. -/
theorem test_send_only_types :
    (receiving (.scanStart (frameI 0x00 0xB8A32C81 [])) (s0 .poller)).out.events = [.unknownType 0x03] ∧
    (receiving (.scanStop (frameI 0x00 0x25741438 [])) (s0 .poller)).out.events = [.unknownType 0x04] ∧
    (receiving (.scanApGet (frameI 0x02 0x9E4CA733 [])) (s0 .poller)).out.events = [.unknownType 0x05] ∧
    (let t := receiving (.clientConfig (frameI 0x00 0 [0x55])) (s0 .poller)
     t.out.events = [.unknownType 0x01] ∧ t.rx.pstate = .seekingIntron) := by decide +kernel

/-! ## The parser, fed raw bytes -/

/-- T-RX-3: a false start is given up, the intron behind it is found. -/
theorem test_resync :
    (rxAll [0x55, 0x4E, 0x55, 0x4E, 0x10, 0x20, 0x30, 0x40, 0x50, 0x60] (s0 .poller)).rx.pstate = .header ∧
    (rxAll [0x55, 0x4E, 0x55, 0x4E, 0x10, 0x20, 0x30, 0x40, 0x50, 0x60] (s0 .poller)).out.events = [.outOfSync 2] := by
  decide +kernel

/-- T-RX-4: with an intron that begins again inside itself, the frame's intron is missed. -/
theorem test_intron_missed :
    (rxAll [0x55, 0x4E, 0x55, 0x4E, 0x55, 0x11, 0x22, 0x33, 0x44, 0x66]
      { s0 .poller with sess := { (s0 .poller).sess with intron := [0x55, 0x4E, 0x55, 0x11, 0x22, 0x33, 0x44, 0x66] } }).rx.pstate =
      .seekingIntron := by decide +kernel

/-- T-RX-8: a type byte outside `TYPE_CODE`. -/
theorem test_unknown_type :
    (rxAll (intronI ++ [0x42, 0x00, 0x00, 0x02, 0x10, 0xA0, 0x00, 0xE6, 0x11]) (s0 .poller)).out.events = [.unknownType 0x42] ∧
    (rxAll (intronI ++ [0x42, 0x00, 0x00, 0x02, 0x10, 0xA0, 0x00, 0xE6, 0x11]) (s0 .poller)).rx.pstate = .discard := by
  decide +kernel

/-- T-RX-9: a fixed type with the wrong size. -/
theorem test_length_error :
    (rxAll (intronI ++ [0x00, 0x0B, 0x00, 0x05, 0x11, 0xD3, 0x65, 0x17, 0x02, 0x00, 0x00, 0xAA, 0xBB]) (s0 .poller)).out.events =
      [.lengthError 0x00 5] := by decide +kernel

/-- 42_rx_parser R161, its example, and R162 with `Alloc` failing (T-RX-11). -/
theorem test_header_decoded :
    gives (exec (.rxByte 0xFE) (allocating none
        { s0 .poller with rx := { (s0 .poller).rx with
          pstate := .header, hpos := 7, hbuf := [0x02, 0x01, 0x00, 0x04, 0xC7, 0xE3, 0xB4, 0x00] } })) (fun t =>
      t.rx.rtype == 0x02 && t.rx.rvar == 0x01 && t.rx.rsize == 4 && t.rx.rcrc == 0xC7E3B4FE &&
      t.rx.pstate == .discard && t.rx.remain == 4 && t.out.events == []) = true := by decide +kernel

/-- 42_rx_parser R170: the first byte in the issuing step, the rest to come. -/
theorem test_rx_feed :
    gives (exec (.rxFeed [0x55, 0x4E, 0x10]) (s0 .poller)) (fun t => t.rx.ipos == 1 && t.tasks.feed == [0x4E, 0x10]) = true := by
  decide

/-! ## The transmit side -/

/-- 41_transmit R130, S0. -/
theorem test_send_takes_the_lock :
    gives (exec (.send 0x02 0x00 [[0x01]]) (s0 (.caller 1))) (fun t =>
      t.tx.lock == some 1 && callerOp t 1 == some (.tx (.send 0x02 0x00 [[0x01]]) .build) && t.out.wireTx == []) = true := by
  decide

/-- T-TX-11: an ssid of 256 bytes fails at J1 with nothing sent. -/
theorem test_join_ap_refuses_long_ssid :
    gives (resumeAgent (holding (.join (List.replicate 256 0x61) [0x78]) .prepare (s0 (.caller 0)))) (fun t =>
      t.tx.lock == none && t.tasks.returns == [(.caller 0, .sent false)] && t.out.wireTx == [] &&
      t.sess.intron == intronI) = true := by decide +kernel

/-- 41_transmit R136, J3: the commit. -/
theorem test_join_ap_commits :
    gives (resumeAgent (inMode .needAp { holding joinJob (.finish true) (s0 (.caller 0)) with
        tx := { lock := some 0, pending := false, seq := none, pendingIntron := some intronJ } })) (fun t =>
      t.sess.intron == intronJ && t.sess.mode == .connectingAp && t.tx.pendingIntron == none && t.tx.lock == none) = true := by
  decide

/-- 41_transmit R134, its example, and a failed transfer that leaves one byte. -/
theorem test_tx_done :
    gives (exec (.txDone .ok) (inFlight (s0 .txhw))) (fun t => t.out.wireTx == [0x01, 0x02] && !t.tx.pending) = true ∧
    gives (exec (.txDone .fail)
        { inFlight (s0 .txhw) with env := { (s0 .txhw).env with draws := { State.reset.env.draws with sents := [1] } } })
      (fun t => t.out.wireTx == [0x01] && t.tx.seq == some (seqAt 0 (some [0x01, 0x02]) .fail)) = true := by decide

/-- T-TX-7. -/
theorem test_tx_done_spurious :
    gives (exec (.txDone .ok) (s0 .txhw)) (fun t => t.halted == some .doubleSignal) = true := by decide

/-! ## The ring -/

/-- 44_dma_reader R220 at the end of the ring. -/
theorem test_dma_write_wraps :
    gives (exec (.dmaWrite 0xAA) { s0 .rxhw with ring := { (s0 .rxhw).ring with wpos := 31 } }) (fun t =>
      t.ring.wpos == 0 && t.ring.mem == [(31, 0xAA)]) = true := by decide

/-- 44_dma_reader R224, its example. -/
theorem test_poll_recovers :
    gives (exec .poll { s0 .poller with ring := { (s0 .poller).ring with rpos := 3, wpos := 9, errPending := true } })
      (fun t => t.ring.rpos == 0 && t.ring.wpos == 0 && !t.ring.errPending && t.tasks.returns == [(.poller, .count 0)]) =
      true := by decide

/-- 44_dma_reader R222: a snapshot that wraps, `(2 − 30) mod 32 = 4`. -/
theorem test_poll_counts_across_the_wrap :
    gives (exec .poll { s0 .poller with ring := { (s0 .poller).ring with rpos := 30, wpos := 2 } })
      (fun t => t.poll == some { w := 2, j := 0, n := 4 }) = true := by decide

/-- 44_dma_reader R223, its example. -/
theorem test_uart_error :
    gives (exec .uartError (s0 .rxhw)) (fun t => t.ring.errPending && t.out.events == [.uartError]) = true := by decide

/-! ## The control operations -/

/-- 45_control R240, its example: from power-on, by the step, as the first instruction. -/
theorem test_init :
    gives (step { State.reset with env := { State.reset.env with
        inputs := [{ agent := .caller 0, act := .issue .op [0x01] }]
        draws := { State.reset.env.draws with bytes := [0x10, 0x20, 0x30, 0x40, 0x50, 0x60] } } }) (fun t =>
      t.sess.mode == .waitInit && t.sess.intron == intronI && t.rx.pstate == .seekingIntron && t.inited && t.ring.irqEn) =
      true := by decide

/-- 60_exceptions R270: a POLL before the first INIT. -/
theorem test_refused_before_init : exec .poll State.reset = .refused .notInitialised := rfl

/-- 45_control R241, its example. -/
theorem test_reset :
    gives (exec .reset (inMode .running { s0 (.caller 0) with
        sess := { (s0 (.caller 0)).sess with associated := true }
        rx := { (s0 (.caller 0)).rx with pstate := .payloadStreaming, chain := some [[0x01]] } })) (fun t =>
      t.sess.mode == .waitInit && !t.sess.associated && t.rx.pstate == .seekingIntron && t.rx.chain == none &&
      t.tasks.released == [[[0x01]]] && t.out.netifLink == [.linkDown] && t.sess.intron == intronI) = true := by decide

/-- 45_control R242, its example, both halves. -/
theorem test_mode_cas :
    gives (exec (.modeCas 4 5) (inMode .running (s0 (.caller 0)))) (fun t =>
      t.sess.mode == .scanning && t.tasks.returns == [(.caller 0, .bool true)]) = true ∧
    gives (exec (.modeCas 2 3) (inMode .scanning (s0 (.caller 0)))) (fun t =>
      t.sess.mode == .scanning && t.tasks.returns == [(.caller 0, .bool false)]) = true := by decide

/-- 60_exceptions R266, F3: a code outside 0..8. -/
theorem test_mode_cas_impossible :
    gives (exec (.modeCas 9 1) (s0 (.caller 0))) (fun t => t.halted == some .impossibleMode && t.tasks.returns == []) = true := by
  decide

/-- 45_control R243: after INIT it returns 1; R246, R247, R244 with values of their examples. -/
theorem test_status_reads :
    gives (exec .modeRead (s0 .alloc)) (fun t => t.tasks.returns == [(.alloc, .byte 1)]) = true ∧
    gives (exec .macRead { s0 .poller with sess := { (s0 .poller).sess with mac := some [2, 0, 0, 0xAA, 0xBB, 0xCC] } })
      (fun t => t.tasks.returns == [(.poller, .mac (some [2, 0, 0, 0xAA, 0xBB, 0xCC]))]) = true ∧
    gives (exec .apCountRead { s0 .poller with sess := { (s0 .poller).sess with apCount := 5 } })
      (fun t => t.tasks.returns == [(.poller, .byte 5)]) = true ∧
    gives (exec .linkUpRead { s0 .poller with sess := { (s0 .poller).sess with associated := true } })
      (fun t => t.tasks.returns == [(.poller, .bool true)]) = true := by decide

/-- 45_control R245, R248: the destructive reads. -/
theorem test_destructive_reads :
    gives (exec .tickRead { s0 .poller with sess := { (s0 .poller).sess with activity := true } })
      (fun t => t.tasks.returns == [(.poller, .bool true)] && !t.sess.activity) = true ∧
    gives (exec .apInfoTake { s0 (.caller 0) with sess := { (s0 (.caller 0)).sess with apSlot := some (2, [0x41, 0x42, 0xC4, 0x03]) } })
      (fun t => t.tasks.returns == [(.caller 0, .apInfo (some (2, [0x41, 0x42, 0xC4, 0x03])))] && t.sess.apSlot == none) =
      true := by decide

/-! ## Witnesses: for each statement with hypotheses, values that meet them; for its clauses, one each -/

/-- A state with one element scheduled. -/
def scheduled (inp : Input) (s : State) : State := { s with env := { s.env with inputs := [inp] } }

/-- Operation bytes that R90 does not list. -/
def unlistedOp : Input := { agent := .caller 0, act := .issue .op [0x0F] }

/-- The wire bytes of a frame of a type outside `TYPE_CODE`. -/
def unlistedFrame : Input := { agent := .poller, act := .issue .frame (intronI ++ [0x42, 0, 0, 0, 0, 0, 0, 0]) }

/-- 30_encoding R90 and 93 U2: refused; R87: a frame of an unlisted type is fed to the parser. -/
theorem test_undecoded_bytes :
    step (scheduled unlistedOp (s0 .poller)) = .refused (.notAnInstruction (.unlistedOperation 0x0F)) ∧
    gives (step (scheduled unlistedFrame (s0 .poller))) (fun t =>
      t.rx.ipos == 1 && t.tasks.feed == intronI.drop 1 ++ [0x42, 0, 0, 0, 0, 0, 0, 0]) = true := ⟨rfl, by decide⟩

/-- A state with a chunk in flight and its completion scheduled. -/
def completing : State := scheduled (issue vectorConfig .txhw (.txDone .ok)) (inFlight (s0 .txhw))

/-- A state in which the lock's holder is about to return from a JOIN_AP. -/
def returning : State :=
  scheduled (goOn (.caller 0)) { holding joinJob (.finish true) (s0 (.caller 0)) with
    tx := { lock := some 0, pending := false, seq := none, pendingIntron := some intronJ } }

/-- A state with seven bytes of a header and checksum read. -/
def atHeaderEnd (seven : List Byte) (s : State) : State :=
  { s with rx := { s.rx with pstate := .header, hpos := 7, hbuf := seven ++ [0], ibuf := intronI } }

/-- A state before the last byte of a frame's payload, header and checksum decoded. -/
def atPayloadEnd (ps : PState) (code var : Byte) (checksum : U32) (size : Nat) (s : State) : State :=
  { s with rx := { s.rx with
      pstate := ps, remain := 1, ibuf := intronI, hbuf := headerBytes code var size ++ be32 checksum
      rtype := code, rvar := var, rsize := BitVec.ofNat 16 size, rcrc := checksum, fpos := size - 1 } }

/-- A state before the last byte of F_PACKET's payload, in a chain of one fragment. -/
def atPacketEnd (checksum : U32) : State :=
  let s := atPayloadEnd .payloadStreaming 0x02 0x01 checksum 4 (s0 .poller)
  { s with rx := { s.rx with chain := some [[0xDE, 0xAD, 0xBE, 0x00]], curFrag := 0, curOff := 3, fpos := 0 } }

/-- A state before the last byte of a fixed payload. -/
def atFixedEnd (code var : Byte) (checksum : U32) (front : List Byte) : State :=
  let s := atPayloadEnd .checksumOnly code var checksum (front.length + 1) (s0 .poller)
  { s with rx := { s.rx with fbuf := front ++ List.replicate (6 - front.length) 0 } }

/-- The debug build. -/
def debugging (s : State) : State := { s with cfg := { s.cfg with debugBuild := true } }

/-- A record other than the default: a longer intron, a ring of two bytes, a checksum of which nothing is known. -/
def otherConfig : Config := { vectorConfig with intronLen := 16, ringSize := 2, crc := .other 7, debugBuild := true }

theorem witness_InvariantAtPowerOn : configOk vectorConfig ∧ configOk otherConfig := by decide

theorem witness_PowerOnValues : State.powerOn otherConfig ≠ State.reset := by decide

theorem witness_StepKeepsInvariant : (Inv completing ∧ ∃ t, step completing = .next t) ∧
    (Inv (scheduled (issue vectorConfig .poller (.rxByte 0xEF)) (atPacketEnd 0xC7E3B4FE)) ∧
      ∃ t, step (scheduled (issue vectorConfig .poller (.rxByte 0xEF)) (atPacketEnd 0xC7E3B4FE)) = .next t) :=
  ⟨⟨⟨by decide, by decide, by decide +kernel, by decide, by decide +kernel, by decide⟩, _, rfl⟩,
   ⟨⟨by decide, by decide, by decide +kernel, by decide, by decide +kernel, by decide⟩, _, rfl⟩⟩

theorem witness_StepKeepsConfiguration : ∃ t, step completing = .next t := ⟨_, rfl⟩

/-- An unlisted operation, and a frame of an unlisted type. -/
theorem witness_StepRunsTheDecodedInstruction :
    (completing.halted = none ∧
      completing.env.inputs = { agent := .txhw, act := .issue .op [0x12, 0x00] } :: [] ∧
      decode completing.cfg .op [0x12, 0x00] = .ok (.txDone .ok, [])) ∧
    ((scheduled unlistedOp (s0 .poller)).halted = none ∧ (scheduled unlistedOp (s0 .poller)).env.inputs = unlistedOp :: [] ∧
      decode vectorConfig .op [0x0F] = .error (.unlistedOperation 0x0F)) ∧
    ((scheduled unlistedFrame (s0 .poller)).halted = none ∧
      (scheduled unlistedFrame (s0 .poller)).env.inputs = unlistedFrame :: [] ∧
      decode vectorConfig .frame (intronI ++ [0x42, 0, 0, 0, 0, 0, 0, 0]) = .error (.unlistedType 0x42)) ∧
    (returning.halted = none ∧ returning.env.inputs = { agent := .caller 0, act := .resume } :: []) ∧
    ((s0 .poller).halted = none ∧ (s0 .poller).env.inputs = []) := by decide

theorem witness_HaltedBlockTakesNoStep : ({ s0 .poller with halted := some .doubleSignal } : State).halted = some .doubleSignal :=
  rfl

theorem witness_OnlyInitBeforeInit :
    State.reset.halted = none ∧ State.reset.inited = false ∧ Instr.poll ≠ .init ∧ Instr.reset ≠ .init := by decide

/-- `CALLER(2)` is no agent where NCALLERS = 2. -/
theorem witness_WrongAgentIsRefused :
    (s0 (.caller 0)).halted = none ∧ (s0 (.caller 0)).inited = true ∧
    agentAllowed vectorConfig (agentColumn .poll) (.caller 0) = false ∧
    agentAllowed vectorConfig (agentColumn .modeRead) (.caller 2) = false ∧
    agentAllowed vectorConfig (agentColumn .modeRead) (.caller 1) = true := by decide

theorem witness_DecodeInvertsEncode :
    configOk vectorConfig ∧ (Instr.packet (frameI 0x01 0xC7E3B4FE [0xDE, 0xAD, 0xBE, 0xEF])).wf vectorConfig = true ∧
    (Instr.send 0x99 0x07 [[], [0xAA]]).wf vectorConfig = true := by decide

theorem witness_OneByteCorruptionIsDetected :
    let p : CrcParams := { order := .reflected, poly := 0xEDB88320, start := 0xFFFFFFFF, reverseOut := false, xorOut := 0xFFFFFFFF }
    isoHdlc = .params p ∧ hasConstantTerm p = true ∧ (0xDE : Byte) ≠ 0xDF := by decide

theorem witness_SendAndJoinTakeTheFreeLock :
    Ready .caller (s0 (.caller 1)) ∧ (s0 (.caller 1)).env.agent = .caller 1 ∧ (s0 (.caller 1)).tx.lock = none := by decide

/-- The lock held by another, at the issue and while waiting; then free, for a SEND and a JOIN_AP. -/
theorem witness_SendAndJoinWaitForTheLock :
    (Ready .caller (holding sendJob .start (s0 (.caller 1))) ∧
      (holding sendJob .start (s0 (.caller 1))).tx.lock ≠ none) ∧
    (({ holding sendJob .acquire (s0 (.caller 0)) with tx := { State.reset.tx with lock := some 1 } } : State).tx.lock ≠ none ∧
      callerOp (holding sendJob .acquire (s0 (.caller 0))) 0 = some (.tx sendJob .acquire)) ∧
    (let s : State := { holding sendJob .acquire (s0 (.caller 0)) with tx := State.reset.tx }
     s.halted = none ∧ s.inited = true ∧ s.tx.lock = none ∧ callerOp s 0 = some (.tx sendJob .acquire)) ∧
    (let s : State := { holding joinJob .acquire (s0 (.caller 0)) with tx := State.reset.tx }
     s.halted = none ∧ s.inited = true ∧ s.tx.lock = none ∧ callerOp s 0 = some (.tx joinJob .acquire)) := by decide

theorem overlong_fragments (n : Nat) (h : 65535 < n) : ¬ fragsTotal [List.replicate n 0] ≤ 65535 := by
  simp [fragsTotal]; omega

theorem overlong_credentials (n : Nat) (h : 65535 < n) :
    ¬ (clientConfigPayload intronJ (List.replicate n 0) []).length ≤ 65535 := by
  simp [clientConfigPayload, intronJ]; omega

/-- A SEND and a JOIN_AP at S1, each with a payload that fits and one that does not. -/
theorem witness_SendBuildsItsChunks :
    (let s := holding sendJob .build (s0 (.caller 0))
     s.halted = none ∧ s.inited = true ∧ s.env.agent = .caller 0 ∧
      callerOp s 0 = some (.tx (.send 0x02 0x00 [[0x01, 0x02], [0x03, 0x04, 0x05]]) .build) ∧
      fragsTotal [[0x01, 0x02], [0x03, 0x04, 0x05]] ≤ 65535) ∧
    (let frags : List (List Byte) := [List.replicate 65536 0]
     callerOp (holding (.send 0x02 0x00 frags) .build (s0 (.caller 0))) 0 = some (.tx (.send 0x02 0x00 frags) .build) ∧
      ¬ fragsTotal frags ≤ 65535) ∧
    (let s := joiningWith (.join [0x61, 0x62] [0x78, 0x79, 0x7A])
     s.halted = none ∧ s.inited = true ∧ s.env.agent = .caller 0 ∧
      callerOp s 0 = some (.tx (.join [0x61, 0x62] [0x78, 0x79, 0x7A]) .build) ∧ s.tx.pendingIntron = some intronJ ∧
      (clientConfigPayload intronJ [0x61, 0x62] [0x78, 0x79, 0x7A]).length ≤ 65535) ∧
    (let ssid : List Byte := List.replicate 65536 0
     callerOp (joiningWith (.join ssid [])) 0 = some (.tx (.join ssid []) .build) ∧
      ¬ (clientConfigPayload intronJ ssid []).length ≤ 65535) :=
  ⟨by decide, ⟨rfl, overlong_fragments _ (by decide)⟩, by decide, ⟨rfl, overlong_credentials _ (by decide)⟩⟩

/-- A state at S2 with a start answer to come. -/
def starting (answer : Bool) (pending : Bool) : State :=
  { holding sendJob .start (s0 (.caller 0)) with
    tx := { lock := some 0, pending := pending, seq := some (seqAt 1 (some [0x01, 0x02]) .ok), pendingIntron := none }
    env := { (s0 (.caller 0)).env with draws := { State.reset.env.draws with starts := [answer] } } }

theorem witness_ChunkStartFollowsTheHardwareAnswer :
    (callerOp (starting true true) 0 = some (.tx sendJob .start) ∧ (starting true true).tx.seq.isSome = true ∧
      (starting true true).tx.pending = true) ∧
    (callerOp (starting true false) 0 = some (.tx sendJob .start) ∧ (starting true false).tx.pending = false ∧
      (drawStart (starting true false).env.draws).1 = true) ∧
    (callerOp (starting false false) 0 = some (.tx sendJob .start) ∧ (starting false false).tx.pending = false ∧
      (drawStart (starting false false).env.draws).1 = false) := by decide

/-- A state at S3, no chunk in flight, after chunk k of three. -/
def resuming (job : TxJob) (k : Nat) (st : TxStatus) : State :=
  { holding job .resume (s0 (.caller 0)) with
    tx := { lock := some 0, pending := false, pendingIntron := none
            seq := some { chunks := [[0x01], [0x02], [0x03]], k := k, cur := some [0x01], status := st } } }

/-- The chunk in flight; after a failure; after the last chunk, the first and the second; a SEND and a JOIN_AP. -/
theorem witness_SendResumesAfterCompletion :
    (let s := inFlight (s0 (.caller 0))
     s.halted = none ∧ s.inited = true ∧ s.env.agent = .caller 0 ∧ callerOp s 0 = some (.tx sendJob .resume) ∧
      s.tx.seq = some (seqAt 0 (some [0x01, 0x02]) .running) ∧ s.tx.pending = true) ∧
    ∀ job ∈ [sendJob, joinJob], ∀ k ∈ [0, 1, 2], ∀ st ∈ [TxStatus.fail, TxStatus.ok],
      (resuming job k st).halted = none ∧ (resuming job k st).inited = true ∧ (resuming job k st).env.agent = .caller 0 ∧
      callerOp (resuming job k st) 0 = some (.tx job .resume) ∧ (resuming job k st).tx.pending = false ∧
      (resuming job k st).tx.seq =
        some { chunks := [[0x01], [0x02], [0x03]], k := k, cur := some [0x01], status := st } := by decide

theorem witness_TxDoneEndsTheChunk :
    (Ready .txhw (s0 .txhw) ∧ (s0 .txhw).tx.pending = false) ∧
    (Ready .txhw (inFlight (s0 .txhw)) ∧ (inFlight (s0 .txhw)).tx.pending = true ∧
      (inFlight (s0 .txhw)).tx.seq = some (seqAt 0 (some [0x01, 0x02]) .running)) := by decide

theorem witness_JoinPreparesTheFreshIntron :
    (holding joinJob .prepare (s0 (.caller 0))).halted = none ∧ (holding joinJob .prepare (s0 (.caller 0))).inited = true ∧
    (holding joinJob .prepare (s0 (.caller 0))).env.agent = .caller 0 ∧
    callerOp (holding joinJob .prepare (s0 (.caller 0))) 0 = some (.tx (.join [0x61, 0x62] [0x78, 0x79, 0x7A]) .prepare) := by
  decide

theorem witness_JoinCommitsOnlyOnSuccess :
    returning.halted = none ∧ returning.inited = true ∧ returning.env.agent = .caller 0 ∧
    callerOp returning 0 = some (.tx (.join [0x61, 0x62] [0x78, 0x79, 0x7A]) (.finish true)) ∧
    returning.tx.pendingIntron = some intronJ := by decide

/-- T-TX-2's send, by the last caller, with its three chunks started. -/
def sending : State :=
  { s0 (.caller 1) with
    env := { inputs := sendScript vectorConfig 1 0x02 0x00 [[0x01, 0x02], [0x03, 0x04, 0x05]] 3, agent := .caller 1
             draws := { State.reset.env.draws with starts := [true, true, true] } } }

theorem witness_SuccessfulSendPutsTheFrameOnTheWire :
    sending.halted = none ∧ sending.inited = true ∧ 1 < sending.cfg.nCallers ∧ 1 < sending.tasks.callers.length ∧
    callerOp sending 1 = none ∧ sending.tx.lock = none ∧ sending.tx.pending = false ∧
    fragsTotal [[0x01, 0x02], [0x03, 0x04, 0x05]] ≤ 65535 ∧
    3 = (sendChunks sending.cfg sending.sess.intron 0x02 0x00 [[0x01, 0x02], [0x03, 0x04, 0x05]]).length ∧
    sending.env.draws.starts = List.replicate 3 true ++ [] ∧
    sending.env.inputs = sendScript sending.cfg 1 0x02 0x00 [[0x01, 0x02], [0x03, 0x04, 0x05]] 3 ++ [] := by decide +kernel

/-- A SEND without payload that stands at S1, its steps scheduled, with an answer for its one start and the status of its one
transfer. -/
def sendingAlone (answer : Bool) (st : DoneStatus := .ok) : State :=
  { holding (.send 0x03 0x00 []) .build (s0 (.caller 0)) with
    env := { inputs := [goOn (.caller 0), goOn (.caller 0), issue vectorConfig .txhw (.txDone st), goOn (.caller 0)]
             agent := .caller 0, draws := { State.reset.env.draws with starts := [answer] } } }

/-- The second part: up to the step before its return CALLER(0) holds the lock, and that step frees it; the same when its one
start fails. -/
theorem witness_SuccessfulSendPutsTheFrameOnTheWire_any_interleaving :
    (Inv (sendingAlone true) ∧ callerOp (sendingAlone true) 0 = some (.tx (.send 0x03 0x00 []) .build) ∧
      (∀ m ∈ [0, 1, 2, 3], gives (Host.Core.run Sys2Proof.core m (sendingAlone true)) (fun x => x.tx.lock == some 0) = true) ∧
      gives (Host.Core.run Sys2Proof.core 4 (sendingAlone true)) (fun w => w.tx.lock == none) = true) ∧
    (Inv (sendingAlone false) ∧ callerOp (sendingAlone false) 0 = some (.tx (.send 0x03 0x00 []) .build) ∧
      (∀ m ∈ [0, 1], gives (Host.Core.run Sys2Proof.core m (sendingAlone false)) (fun x => x.tx.lock == some 0) = true) ∧
      gives (Host.Core.run Sys2Proof.core 2 (sendingAlone false)) (fun w => w.tx.lock == none) = true) :=
  ⟨⟨⟨by decide, by decide, by decide +kernel, by decide, by decide +kernel, by decide⟩, by decide, by decide +kernel,
      by decide +kernel⟩,
   ⟨by decide, by decide, by decide +kernel, by decide, by decide +kernel, by decide⟩, by decide, by decide +kernel,
      by decide +kernel⟩

/-- Its FAIL clause: the step that frees TXSEQ, from S2 after a refused start and from S3 after a failed transfer; and a payload
that S1 refuses. -/
theorem witness_SuccessfulSendPutsTheFrameOnTheWire_failures :
    (∃ x q, Host.Core.run Sys2Proof.core 1 (sendingAlone false) = .next x ∧
      failsAtChunk 0 (.send 0x03 0x00 []) (jobChunks (.send 0x03 0x00 []) (sendingAlone false)) q 0 x) ∧
    (∃ x q, Host.Core.run Sys2Proof.core 3 (sendingAlone true .fail) = .next x ∧
      failsAtChunk 0 (.send 0x03 0x00 []) (jobChunks (.send 0x03 0x00 []) (sendingAlone true .fail)) q 1 x) ∧
    (let job : TxJob := .send 0x02 0x00 [List.replicate 65536 0]
     Inv (holding job .build (s0 (.caller 0))) ∧ callerOp (holding job .build (s0 (.caller 0))) 0 = some (.tx job .build) ∧
      65535 < fragsTotal (jobFrags none job)) :=
  ⟨⟨_, _, rfl, rfl, rfl, by decide +kernel, by decide +kernel, .inl ⟨rfl, rfl⟩, _, rfl, rfl⟩,
   ⟨_, _, rfl, rfl, rfl, by decide +kernel, by decide +kernel, .inr ⟨rfl, rfl⟩, _, rfl, rfl⟩,
   ⟨by decide +kernel, by decide +kernel, by decide +kernel, by decide +kernel, by decide +kernel, by decide +kernel⟩, rfl,
   Nat.lt_of_not_le (overlong_fragments 65536 (by decide))⟩

/-- T-TX-5's join. -/
def joining : State :=
  { inMode .needAp (s0 (.caller 0)) with
    env := { inputs := joinScript vectorConfig 0 [0x61, 0x62] [0x78, 0x79, 0x7A], agent := .caller 0
             draws := { State.reset.env.draws with bytes := [1, 2, 3, 4, 5, 6], starts := [true, true] } } }

theorem witness_SuccessfulJoinInstallsTheIntron :
    joining.halted = none ∧ joining.inited = true ∧ 0 < joining.cfg.nCallers ∧ 0 < joining.tasks.callers.length ∧
    callerOp joining 0 = none ∧ joining.tx.lock = none ∧ joining.tx.pending = false ∧ configOk joining.cfg ∧
    joining.cfg.intronLen + 2 + 2 + 3 ≤ 65535 ∧
    drawIntron joining.cfg joining.env.draws =
      (intronJ, { State.reset.env.draws with starts := [true, true], taken := 6 }) ∧
    joining.env.inputs = joinScript joining.cfg 0 [0x61, 0x62] [0x78, 0x79, 0x7A] ++ [] := by decide +kernel

theorem witness_OnlyTxDoneWritesTheWire : ∃ t, step completing = .next t ∧ t.out.wireTx ≠ completing.out.wireTx :=
  ⟨_, rfl, by decide⟩

theorem witness_LockLeavesItsHolderOnlyByReturn :
    Inv returning ∧ returning.tx.lock = some 0 ∧ ∃ t, step returning = .next t ∧ t.tx.lock ≠ some 0 :=
  ⟨⟨by decide, by decide, by decide +kernel, by decide, by decide +kernel, by decide⟩, by decide, _, rfl, by decide⟩

theorem witness_DoubleSignalNeedsASpuriousCompletion :
    Inv (scheduled (issue vectorConfig .txhw (.txDone .ok)) (s0 .txhw)) ∧
    ∃ t, step (scheduled (issue vectorConfig .txhw (.txDone .ok)) (s0 .txhw)) = .next t ∧ t.halted = some .doubleSignal :=
  ⟨⟨by decide, by decide, by decide +kernel, by decide, by decide +kernel, by decide⟩, _, rfl, by decide⟩

theorem witness_ByteWhileSeekingTheIntron :
    Ready .poller (s0 .poller) ∧ (s0 .poller).rx.pstate = .seekingIntron := by decide

theorem witness_HeaderByteIsCollected :
    let s : State := { s0 .poller with rx := { (s0 .poller).rx with pstate := .header, hpos := 6 } }
    Ready .poller s ∧ s.rx.pstate = .header ∧ s.rx.hpos < 7 := by decide

/-- For each of its six clauses, the seven bytes and the eighth that meet it. -/
theorem witness_HeaderSelectsThePathOfItsType :
    (let s := atHeaderEnd [0x08, 0, 0, 0, 0x6F, 0xA2, 0xAB] (debugging (s0 .poller))
     Ready .poller s ∧ s.rx.hbuf.length = 8 ∧ s.cfg.debugBuild = true ∧
      typeOf s.cfg.typeCode (headerDecoded 0x80 s.rx).rtype = some .invalid) ∧
    (let s := atHeaderEnd [0x08, 0, 0, 0, 0x6F, 0xA2, 0xAB] (s0 .poller)
     Ready .poller s ∧ s.rx.hbuf.length = 8 ∧ s.cfg.debugBuild = false ∧
      typeOf s.cfg.typeCode (headerDecoded 0x80 s.rx).rtype = some .invalid) ∧
    (let s := atHeaderEnd [0x02, 1, 0, 1, 0, 0, 0] (allocating none (s0 .poller))
     Ready .poller s ∧ s.rx.hbuf.length = 8 ∧ (headerDecoded 0 s.rx).rsize ≠ 0 ∧
      typeOf s.cfg.typeCode (headerDecoded 0 s.rx).rtype = some .packet ∧ (drawAlloc 1 s.env.draws).1 = none) ∧
    (let s := atHeaderEnd [0x02, 1, 0xFF, 0xFF, 0, 0, 0] (allocating (some [1]) (s0 .poller))
     Ready .poller s ∧ s.rx.hbuf.length = 8 ∧ (headerDecoded 0 s.rx).rsize ≠ 0 ∧
      typeOf s.cfg.typeCode (headerDecoded 0 s.rx).rtype = some .packet ∧
      (drawAlloc 65535 s.env.draws).1 = some [1, 65534]) ∧
    (let s := atHeaderEnd [0x02, 1, 0, 0, 0x01, 0xDD, 0x21] (s0 .poller)
     Ready .poller s ∧ s.rx.hbuf.length = 8 ∧ (headerDecoded 0xD3 s.rx).rsize = 0 ∧ s.rx.chain = none ∧
      typeOf s.cfg.typeCode (headerDecoded 0xD3 s.rx).rtype = some .packet) ∧
    (let s := atHeaderEnd [0x07, 2, 0, 4, 0x85, 0x1A, 0xF9] (s0 .poller)
     Ready .poller s ∧ s.rx.hbuf.length = 8 ∧ fixedLen s.cfg .scanApInfo = some 4 ∧
      typeOf s.cfg.typeCode (headerDecoded 0x47 s.rx).rtype = some .scanApInfo) ∧
    (let s := atHeaderEnd [0x42, 0, 0, 2, 0x10, 0xA0, 0] (s0 .poller)
     Ready .poller s ∧ s.rx.hbuf.length = 8 ∧ typeOf s.cfg.typeCode (headerDecoded 0xE6 s.rx).rtype = none) := by
  decide +kernel

theorem witness_PayloadByteIsStored :
    (Ready .poller (parsing .checksumOnly 2 (s0 .poller)) ∧ (parsing .checksumOnly 2 (s0 .poller)).rx.remain ≠ 1) ∧
    (let s := parsing .payloadStreaming 2 (s0 .poller)
     let s : State := { s with rx := { s.rx with chain := some [[0], [0, 0]], curFrag := 1 } }
     Ready .poller s ∧ s.rx.remain ≠ 1 ∧ s.rx.chain = some [[0], [0, 0]] ∧ ([[0], [0, 0]] : Chain)[s.rx.curFrag]? = some [0, 0]) := by
  decide

theorem witness_DiscardedByteIsOnlyCounted :
    Ready .poller (parsing .discard 1 (s0 .poller)) ∧ (parsing .discard 1 (s0 .poller)).rx.pstate = .discard := by decide

/-- A wrong checksum, and a right one for each fixed type and both versions. -/
theorem witness_LastFixedPayloadByteDispatches :
    (let s := atFixedEnd 0x06 0x00 0 []
     Ready .poller s ∧ s.rx.pstate = .checksumOnly ∧ s.rx.remain = 1 ∧ s.rx.chain = none ∧
      frameCrc s.cfg.crc s.rx.ibuf (s.rx.hbuf.take 4) ((s.rx.fbuf.set s.rx.fpos 0x05).take s.rx.rsize.toNat) ≠ s.rx.rcrc) ∧
    (let s := atFixedEnd 0x00 0x0B 0xF2FA2D29 [0x02, 0x00, 0x00, 0xAA, 0xBB]
     Ready .poller s ∧ s.rx.pstate = .checksumOnly ∧ s.rx.remain = 1 ∧ s.rx.chain = none ∧
      frameCrc s.cfg.crc s.rx.ibuf (s.rx.hbuf.take 4) ((s.rx.fbuf.set s.rx.fpos 0xCC).take s.rx.rsize.toNat) = s.rx.rcrc ∧
      typeOf s.cfg.typeCode s.rx.rtype = some .deviceInfo ∧ s.rx.rvar = s.cfg.supportedVersion) ∧
    (let s := atFixedEnd 0x00 0x0A 0xE581396A [0x02, 0x00, 0x00, 0xAA, 0xBB]
     Ready .poller s ∧ s.rx.pstate = .checksumOnly ∧ s.rx.remain = 1 ∧ s.rx.chain = none ∧
      frameCrc s.cfg.crc s.rx.ibuf (s.rx.hbuf.take 4) ((s.rx.fbuf.set s.rx.fpos 0xCC).take s.rx.rsize.toNat) = s.rx.rcrc ∧
      typeOf s.cfg.typeCode s.rx.rtype = some .deviceInfo ∧ s.rx.rvar ≠ s.cfg.supportedVersion) ∧
    (let s := atFixedEnd 0x06 0x00 0xE994B5A9 []
     Ready .poller s ∧ s.rx.pstate = .checksumOnly ∧ s.rx.remain = 1 ∧ s.rx.chain = none ∧
      frameCrc s.cfg.crc s.rx.ibuf (s.rx.hbuf.take 4) ((s.rx.fbuf.set s.rx.fpos 0x05).take s.rx.rsize.toNat) = s.rx.rcrc ∧
      typeOf s.cfg.typeCode s.rx.rtype = some .scanApCount) ∧
    (let s := atFixedEnd 0x07 0x02 0x851AF947 [0x41, 0x42, 0xC4]
     Ready .poller s ∧ s.rx.pstate = .checksumOnly ∧ s.rx.remain = 1 ∧ s.rx.chain = none ∧
      frameCrc s.cfg.crc s.rx.ibuf (s.rx.hbuf.take 4) ((s.rx.fbuf.set s.rx.fpos 0x03).take s.rx.rsize.toNat) = s.rx.rcrc ∧
      typeOf s.cfg.typeCode s.rx.rtype = some .scanApInfo) := by decide +kernel

theorem witness_LastPacketByteDeliversOrReleases :
    (let s := atPacketEnd 0xC7E3B4FE
     Ready .poller s ∧ s.rx.pstate = .payloadStreaming ∧ s.rx.remain = 1 ∧ s.rx.rsize ≠ 0 ∧
      typeOf s.cfg.typeCode s.rx.rtype = some .packet ∧ s.rx.chain = some [[0xDE, 0xAD, 0xBE, 0x00]] ∧
      ([[0xDE, 0xAD, 0xBE, 0x00]] : Chain)[s.rx.curFrag]? = some [0xDE, 0xAD, 0xBE, 0x00] ∧
      frameCrc s.cfg.crc s.rx.ibuf (s.rx.hbuf.take 4) [0xDE, 0xAD, 0xBE, 0xEF] = s.rx.rcrc) ∧
    (let s := atPacketEnd 0
     Ready .poller s ∧ frameCrc s.cfg.crc s.rx.ibuf (s.rx.hbuf.take 4) [0xDE, 0xAD, 0xBE, 0xEF] ≠ s.rx.rcrc) := by
  decide +kernel

/-- In a payload that is being discarded; and where the frame's first byte ends an INVALID header in a debug build. -/
theorem witness_FramesAreFedToTheParser :
    (Ready .poller (parsing .discard 7 (s0 .poller)) ∧ (parsing .discard 7 (s0 .poller)).cfg.typeCode.scanStart = 0x03 ∧
      frameBytes intronI 0x03 0x00 0xB8A32C81 [] =
        0x55 :: [0x4E, 0x10, 0x20, 0x30, 0x40, 0x50, 0x60, 0x03, 0x00, 0x00, 0x00, 0xB8, 0xA3, 0x2C, 0x81]) ∧
    (let s := atHeaderEnd [0x08, 0, 0, 0, 0x6F, 0xA2, 0xAB] (debugging (s0 .poller))
     Ready .poller s ∧ (rxByte 0x55 s).halted = some .invalidMessage) := by decide +kernel

/-- A frame for each branch: a wrong size, a wrong checksum, the right version, another version. -/
theorem witness_DeviceInfoFrame :
    Ready .poller (s0 .poller) ∧ atFrameStart (s0 .poller) ∧
    recognisable (s0 .poller) (frameI 0x0B 0x11D36517 [0x02, 0x00, 0x00, 0xAA, 0xBB]) ∧
    recognisable (s0 .poller) (frameI 0x0B 0xF2FA2D29 [0x02, 0x00, 0x00, 0xAA, 0xBB, 0xCC]) ∧
    ¬ checksumRight vectorConfig 0x00 (frameI 0x0B 0 [0x02, 0x00, 0x00, 0xAA, 0xBB, 0xCC]) ∧
    checksumRight vectorConfig 0x00 (frameI 0x0B 0xF2FA2D29 [0x02, 0x00, 0x00, 0xAA, 0xBB, 0xCC]) ∧
    checksumRight vectorConfig 0x00 (frameI 0x0A 0xE581396A [0x02, 0x00, 0x00, 0xAA, 0xBB, 0xCC]) := by decide +kernel

/-- A wrong size, a wrong checksum, a right one. -/
theorem witness_ApCountFrame :
    Ready .poller (s0 .poller) ∧ atFrameStart (s0 .poller) ∧ recognisable (s0 .poller) (frameI 0x00 0 []) ∧
    recognisable (s0 .poller) (frameI 0x00 0xE994B5A9 [0x05]) ∧
    ¬ checksumRight vectorConfig 0x06 (frameI 0x00 0 [0x05]) ∧
    checksumRight vectorConfig 0x06 (frameI 0x00 0xE994B5A9 [0x05]) := by decide +kernel

/-- A wrong size, a wrong checksum, a right one; with its index asked for, and without. -/
theorem witness_ApInfoFrame :
    Ready .poller (s0 .poller) ∧ atFrameStart (s0 .poller) ∧ (s0 .poller).sess.lastQuery = none ∧
    (let s : State := { s0 .poller with sess := { (s0 .poller).sess with lastQuery := some 2 } }
     Ready .poller s ∧ atFrameStart s ∧ s.sess.lastQuery = some 2) ∧
    recognisable (s0 .poller) (frameI 0x02 0 [0x41]) ∧
    recognisable (s0 .poller) (frameI 0x02 0x851AF947 [0x41, 0x42, 0xC4, 0x03]) ∧
    ¬ checksumRight vectorConfig 0x07 (frameI 0x02 0 [0x41, 0x42, 0xC4, 0x03]) ∧
    checksumRight vectorConfig 0x07 (frameI 0x02 0x851AF947 [0x41, 0x42, 0xC4, 0x03]) := by decide +kernel

theorem witness_SendOnlyFramesAreDiscarded :
    Ready .poller (s0 .poller) ∧ atFrameStart (s0 .poller) ∧ recognisable (s0 .poller) (frameI 0x00 0xB8A32C81 []) ∧
    recognisable (s0 .poller) (frameI 0x00 0 [0x55]) := by decide

/-- Its three clauses: no chain, a chain and the right checksum, a chain and a wrong one. -/
theorem witness_PacketFrame :
    Ready .poller (allocating none (s0 .poller)) ∧ atFrameStart (allocating none (s0 .poller)) ∧
    (drawAlloc 4 (allocating none (s0 .poller)).env.draws).1 = none ∧
    Ready .poller (allocating (some [3, 1]) (s0 .poller)) ∧ atFrameStart (allocating (some [3, 1]) (s0 .poller)) ∧
    (drawAlloc 4 (allocating (some [3, 1]) (s0 .poller)).env.draws).1 = some [3, 1] ∧
    recognisable (s0 .poller) (frameI 0x01 0xC7E3B4FE [0xDE, 0xAD, 0xBE, 0xEF]) ∧
    checksumRight vectorConfig 0x02 (frameI 0x01 0xC7E3B4FE [0xDE, 0xAD, 0xBE, 0xEF]) ∧
    ¬ checksumRight vectorConfig 0x02 (frameI 0x01 0xC7E3B4FE [0xDF, 0xAD, 0xBE, 0xEF]) := by decide +kernel

theorem witness_KeepaliveFrame :
    Ready .poller (s0 .poller) ∧ atFrameStart (s0 .poller) ∧ recognisable (s0 .poller) (frameI 0x01 0x01DD21D3 []) ∧
    checksumRight vectorConfig 0x02 (frameI 0x01 0x01DD21D3 []) ∧ ¬ checksumRight vectorConfig 0x02 (frameI 0x01 0 []) := by
  decide +kernel

/-- Both builds, without and with a payload. -/
theorem witness_InvalidFrame :
    (Ready .poller (s0 .poller) ∧ atFrameStart (s0 .poller) ∧ (s0 .poller).cfg.debugBuild = false) ∧
    (Ready .poller (debugging (s0 .poller)) ∧ atFrameStart (debugging (s0 .poller)) ∧
      (debugging (s0 .poller)).cfg.debugBuild = true) ∧
    recognisable (debugging (s0 .poller)) (frameI 0x00 0x6FA2AB80 []) ∧
    recognisable (debugging (s0 .poller)) (frameI 0x00 0xAF1DD4A7 [0x99]) := by decide +kernel

theorem witness_RxFeedFeedsItsBytesInOrder :
    Ready .poller (s0 .poller) ∧ (rxByte 0x55 (s0 .poller)).halted = none ∧
    (let s := atHeaderEnd [0x08, 0, 0, 0, 0x6F, 0xA2, 0xAB] (debugging (s0 .poller))
     Ready .poller s ∧ (rxByte 0x80 s).halted = some .invalidMessage) := by decide +kernel

/-- Three parts, one of them empty. -/
theorem witness_ChunkingDoesNotMatter :
    let s : State := { s0 .poller with env := { (s0 .poller).env with
      inputs := feedScript vectorConfig [[0x55, 0x4E, 0x10], [], [0x20]] } }
    Ready .poller s ∧ s.env.agent = .poller ∧ (rxAll [[0x55, 0x4E, 0x10], [], [0x20]].flatten s).halted = none ∧
    s.env.inputs = feedScript s.cfg [[0x55, 0x4E, 0x10], [], [0x20]] ++ [] := by decide

/-- T-RX-3b: garbage that ends inside a partial match. -/
theorem witness_IntronIsFoundAfterGarbage :
    (s0 .poller).halted = none ∧ (s0 .poller).sess.intron = 0x55 :: [0x4E, 0x10, 0x20, 0x30, 0x40, 0x50, 0x60] ∧
    (s0 .poller).sess.intron.length = (s0 .poller).cfg.intronLen ∧ 4 ≤ (s0 .poller).cfg.intronLen ∧
    (0x55 : Byte) ∉ [0x4E, 0x10, 0x20, 0x30, 0x40, 0x50, 0x60] ∧ (s0 .poller).rx.pstate = .seekingIntron ∧
    (s0 .poller).rx.ipos = 0 ∧ (s0 .poller).rx.ibuf.length = (s0 .poller).cfg.intronLen ∧
    (∀ n, n ≤ [0xAA, 0xBB, 0x55].length → (rxAll ([0xAA, 0xBB, 0x55].take n) (s0 .poller)).rx.pstate = .seekingIntron) := by
  decide

theorem witness_BytesAreNeverReexamined :
    (parsing .header 0 (s0 .poller)).rx.pstate ≠ .seekingIntron ∧ (parsing .discard 2 (s0 .poller)).rx.pstate = .discard := by
  decide

/-- To NEED_AP, to WRONG_FIRMWARE, a DEVICE_INFO after them, and to RUNNING by a packet and by a keepalive. -/
theorem witness_ModeEffectsOfReception :
    (let s := atFixedEnd 0x00 0x0B 0xF2FA2D29 [0x02, 0x00, 0x00, 0xAA, 0xBB]
     parserOk s.cfg s.rx ∧ s.sess.mode = .waitInit ∧ (rxByte 0xCC s).sess.mode = .needAp) ∧
    (let s := atFixedEnd 0x00 0x0A 0xE581396A [0x02, 0x00, 0x00, 0xAA, 0xBB]
     parserOk s.cfg s.rx ∧ s.sess.mode = .waitInit ∧ (rxByte 0xCC s).sess.mode = .wrongFirmware) ∧
    (let s := inMode .needAp (atFixedEnd 0x00 0x0B 0xF2FA2D29 [0x02, 0x00, 0x00, 0xAA, 0xBB])
     parserOk s.cfg s.rx ∧ typeOf s.cfg.typeCode (rxByte 0xCC s).rx.rtype = some .deviceInfo ∧ s.sess.mode ≠ .waitInit) ∧
    (let s := inMode .needAp (atPacketEnd 0xC7E3B4FE)
     parserOk s.cfg s.rx ∧ (rxByte 0xEF s).sess.mode = .running) ∧
    (let s := inMode .connectingAp (atHeaderEnd [0x02, 1, 0, 0, 0x01, 0xDD, 0x21] (s0 .poller))
     parserOk s.cfg s.rx ∧ (rxByte 0xD3 s).sess.mode = .running) :=
  ⟨by decide +kernel, by decide +kernel, by decide +kernel, by decide +kernel, by decide +kernel⟩

/-- A keepalive's last byte, and a packet's. -/
theorem witness_ActivityComesOnlyFromAValidPacket :
    (let s := atHeaderEnd [0x02, 1, 0, 0, 0x01, 0xDD, 0x21] (s0 .poller)
     parserOk s.cfg s.rx ∧ s.sess.activity = false ∧ (rxByte 0xD3 s).sess.activity = true) ∧
    (let s := atPacketEnd 0xC7E3B4FE
     parserOk s.cfg s.rx ∧ s.sess.activity = false ∧ (rxByte 0xEF s).sess.activity = true) := by decide +kernel

/-- A state with ring offsets. -/
def ringAt (w r : Nat) (s : State) : State := { s with ring := { s.ring with wpos := w, rpos := r } }

theorem witness_DmaWriteStoresOneByte :
    Ready .rxhw (ringAt 31 0 (s0 .rxhw)) ∧ (ringAt 31 0 (s0 .rxhw)).ring.wpos < (ringAt 31 0 (s0 .rxhw)).cfg.ringSize := by
  decide

theorem witness_PollBeginsWithRecoveryOrSnapshot :
    (let s : State := { s0 .poller with ring := { (s0 .poller).ring with errPending := true } }
     Ready .poller s ∧ s.ring.errPending = true) ∧
    (Ready .poller (ringAt 31 0 (s0 .poller)) ∧ (ringAt 31 0 (s0 .poller)).ring.errPending = false ∧
      (ringAt 31 0 (s0 .poller)).ring.wpos < 32 ∧ (ringAt 31 0 (s0 .poller)).ring.rpos < 32) := by decide

/-- A POLL in progress over one ring byte. -/
def polling (j : Nat) (b : Byte) (s : State) : State :=
  { s with poll := some { w := 1, j := j, n := 1 }, ring := { s.ring with wpos := 1, mem := [(0, b)] } }

/-- A POLL in progress: its last byte to feed, that byte fatal, nothing more to feed. -/
theorem witness_PollFeedsThenCommits :
    (let s := polling 0 0x55 (s0 .poller)
     s.halted = none ∧ s.inited = true ∧ s.env.agent = .poller ∧ s.poll = some { w := 1, j := 0, n := 1 } ∧
      (rxByte (ringRead s.ring.mem ((s.ring.rpos + 0) % s.cfg.ringSize)) s).halted = none) ∧
    (let s := polling 0 0x80 (atHeaderEnd [0x08, 0, 0, 0, 0x6F, 0xA2, 0xAB] (debugging (s0 .poller)))
     s.halted = none ∧ s.inited = true ∧ s.env.agent = .poller ∧ s.poll = some { w := 1, j := 0, n := 1 } ∧
      (rxByte (ringRead s.ring.mem ((s.ring.rpos + 0) % s.cfg.ringSize)) s).halted.isSome = true) ∧
    (let s := polling 1 0x55 (s0 .poller)
     s.halted = none ∧ s.inited = true ∧ s.env.agent = .poller ∧ s.poll = some { w := 1, j := 1, n := 1 }) := by
  decide +kernel

/-- RING_SIZE − 1 bytes, across the ring's end. -/
theorem witness_PollFeedsExactlyTheReceivedBytes :
    let s : State := { ringAt 30 30 (s0 .rxhw) with env := { (s0 .rxhw).env with
      inputs := dmaScript vectorConfig (List.replicate 31 0xAA) ++ pollScript vectorConfig 31 } }
    s.halted = none ∧ s.inited = true ∧ s.poll = none ∧ s.tasks.feed = [] ∧ s.ring.errPending = false ∧
    2 ≤ s.cfg.ringSize ∧ s.ring.wpos < s.cfg.ringSize ∧ s.ring.rpos = s.ring.wpos ∧
    (List.replicate 31 (0xAA : Byte)).length < s.cfg.ringSize ∧ (rxAll (List.replicate 31 0xAA) s).halted = none ∧
    s.env.inputs =
      dmaScript s.cfg (List.replicate 31 0xAA) ++ pollScript s.cfg (List.replicate 31 (0xAA : Byte)).length ++ [] := by
  decide +kernel

/-- A whole lap. -/
theorem witness_RingOverrunIsUndetected :
    let s : State := { ringAt 5 5 (s0 .rxhw) with env := { (s0 .rxhw).env with
      inputs := dmaScript vectorConfig (List.replicate 32 0xAA) ++ [issue vectorConfig .poller .poll] } }
    s.halted = none ∧ s.inited = true ∧ s.poll = none ∧ s.tasks.feed = [] ∧ s.ring.errPending = false ∧
    2 ≤ s.cfg.ringSize ∧ s.ring.wpos < s.cfg.ringSize ∧ s.ring.rpos = s.ring.wpos ∧
    s.env.inputs = dmaScript s.cfg (List.replicate 32 0xAA) ++ issue s.cfg .poller .poll :: [] := by decide +kernel

theorem witness_UartErrorIsRecorded :
    (Ready .rxhw (s0 .rxhw) ∧ (s0 .rxhw).ring.irqEn = true) ∧
    (let s : State := { s0 .rxhw with ring := { (s0 .rxhw).ring with irqEn := false } }
     Ready .rxhw s ∧ s.ring.irqEn = false) := by decide

/-- A state with the draws of an intron. -/
def drawing (s : State) : State := { s with env := { s.env with draws := { s.env.draws with bytes := [1, 2, 3, 4, 5, 6] } } }

/-- Before the first INIT, and later. -/
theorem witness_InitStartsASession :
    (let s := drawing { State.reset with env := { State.reset.env with agent := .caller 0 } }
     s.halted = none ∧ agentAllowed s.cfg .caller s.env.agent = true ∧ agentBusy s = false ∧ s.inited = false ∧
      drawIntron s.cfg s.env.draws = (intronJ, { State.reset.env.draws with taken := 6 })) ∧
    (let s := drawing (s0 (.caller 1))
     s.halted = none ∧ agentAllowed s.cfg .caller s.env.agent = true ∧ agentBusy s = false ∧ s.inited = true ∧
      s.tx.lock = none ∧ s.poll = none ∧
      drawIntron s.cfg s.env.draws = (intronJ, { State.reset.env.draws with taken := 6 })) := by decide

theorem witness_ResetLeavesRingAndFlagsAlone :
    let s := drawing (s0 (.caller 1))
    Ready .caller s ∧ s.tx.lock = none ∧ s.poll = none ∧
    drawIntron s.cfg s.env.draws = (intronJ, { State.reset.env.draws with taken := 6 }) := by decide

/-- The lock held by another caller, a poll in progress, both operations waiting, neither in the way. -/
theorem witness_InitAndResetWaitForLockAndPoll :
    (let s := holding sendJob .start (s0 (.caller 1))
     s.halted = none ∧ s.inited = true ∧ s.env.agent = .caller 1 ∧ 1 < s.cfg.nCallers ∧ s.tx.lock ≠ none ∧
      callerOp s 1 = none) ∧
    (let s : State := { s0 (.caller 1) with poll := some { w := 0, j := 0, n := 0 }
                                            tasks := { (s0 (.caller 1)).tasks with callers := [none, some .resetWait] } }
     s.poll ≠ none ∧ callerOp s 1 = some .resetWait) ∧
    (let s : State := { s0 (.caller 1) with tasks := { (s0 (.caller 1)).tasks with callers := [none, some .initWait] } }
     s.tx.lock = none ∧ s.poll = none ∧ 1 < s.tasks.callers.length ∧ callerOp s 1 = some .initWait) := by decide

/-- Codes 8 and 9 on either side. -/
theorem witness_ModeCasComparesAndSwaps :
    Ready .caller (s0 (.caller 1)) ∧ (8 : Byte).toNat ≤ 8 ∧ (0 : Byte).toNat ≤ 8 ∧ 8 < (9 : Byte).toNat ∧
    8 < (0xFF : Byte).toNat := by decide

theorem witness_StatusReadsReturnTheirRegister :
    Ready .any (s0 .rxhw) ∧ Ready .any (s0 .alloc) ∧ Ready .any (s0 (.caller 1)) := by decide

theorem witness_DestructiveReadsClearWhatTheyReturn : Ready .poller (s0 .poller) ∧ Ready .caller (s0 (.caller 1)) := by decide

end Sys2Proof.Tests
end

section
/-! One step, by what the schedule has next (00_scope R14, 20_memory R70): an equation for each case of `step`. -/

namespace Sys2Proof.Machine

open Sys2Proof

section

variable {s : State} {a : Agent} {fmt : Format} {bytes : List Byte} {rest : List Input}

/-- With nothing scheduled nothing changes (60_exceptions R281). -/
theorem step_of_nothing_scheduled (hh : s.halted = none) (hin : s.env.inputs = []) : step s = .next s := by
  simp only [step, hh, hin]

/-- An agent scheduled to go on takes its next step. -/
theorem step_of_resume (hh : s.halted = none) (hin : s.env.inputs = { agent := a, act := .resume } :: rest) :
    step s = resumeAgent (takeInput { agent := a, act := .resume } rest s) := by
  simp only [step, hh, hin]

/-- Issued bytes that decode run the instruction they are. -/
theorem step_of_decode_ok {i : Instr} {tail : List Byte} (hh : s.halted = none)
    (hin : s.env.inputs = { agent := a, act := .issue fmt bytes } :: rest)
    (hd : decode s.cfg fmt bytes = .ok (i, tail)) :
    step s = exec i (takeInput { agent := a, act := .issue fmt bytes } rest s) := by
  simp only [step, hh, hin, hd]

/-- Issued bytes that decode to nothing do what their format says of them (30_encoding R87, R90). -/
theorem step_of_decode_error {e : DecodeError} (hh : s.halted = none)
    (hin : s.env.inputs = { agent := a, act := .issue fmt bytes } :: rest)
    (hd : decode s.cfg fmt bytes = .error e) :
    step s = undecoded fmt bytes e (takeInput { agent := a, act := .issue fmt bytes } rest s) := by
  simp only [step, hh, hin, hd]

/-- The bytes of an operation that decode to nothing are refused (93_implementation_defined U2). -/
theorem undecoded_op (bytes : List Byte) (e : DecodeError) (s : State) :
    undecoded .op bytes e s = .refused (.notAnInstruction e) := rfl

end

/-- Settles O5: each clause is the equation of `step` for what the schedule has next. -/
theorem stepRunsTheDecodedInstruction : Obligations.StepRunsTheDecodedInstruction := by
  unfold Obligations.StepRunsTheDecodedInstruction
  refine ⟨fun s a fmt bytes rest hh hin => ⟨?decoded, ?operation, ?wire⟩, ?resume, ?nothing⟩
  case decoded =>
    intro i tail hd
    exact step_of_decode_ok hh hin hd
  case operation =>
    rintro e rfl hd
    rw [step_of_decode_error hh hin hd, undecoded_op]
  case wire =>
    rintro e rfl hd
    rw [step_of_decode_error hh hin hd, undecoded_frame]
    rfl
  case resume =>
    intro s a rest hh hin
    exact step_of_resume hh hin
  case nothing =>
    intro s hh hin
    exact step_of_nothing_scheduled hh hin

end Sys2Proof.Machine
end

section
/-! The configuration record (00_scope R7) through every operation of the block: nothing writes it. One lemma per
operation, in the order of the model's files; `step_next` and `exec_next` then bring every step down to them. -/

namespace Sys2Proof.Machine

open Sys2Proof

section

variable (s : State)

/-! ### Shared operations -/

@[simp] theorem casMode_cfg (old new : Mode) : (casMode old new s).cfg = s.cfg := by rw [casMode_eq]

@[simp] theorem releaseChain_cfg : (releaseChain s).cfg = s.cfg := by rw [releaseChain_eq]

/-- The rest of a step after a fatal stop, if that rest keeps the record. -/
theorem unlessHalted_cfg {rest : State → State} (h : (rest s).cfg = s.cfg) : (unlessHalted rest s).cfg = s.cfg := by
  unfold unlessHalted
  split
  · rfl
  · exact h

/-! ### Control -/

@[simp] theorem endSession_cfg : (endSession s).cfg = s.cfg := by
  unfold endSession
  split
  · rw [releaseChain_cfg, noteLinkDown_eq]
  · rfl

@[simp] theorem initNow_cfg : (initNow s).cfg = s.cfg := endSession_cfg s

@[simp] theorem resetIntron_cfg : (resetIntron s).cfg = s.cfg := by
  unfold resetIntron
  split <;> rfl

@[simp] theorem dropAssociation_cfg : (dropAssociation s).cfg = s.cfg := by rw [dropAssociation_eq]

@[simp] theorem resetParser_cfg : (resetParser s).cfg = s.cfg := releaseChain_cfg s

@[simp] theorem resetNow_cfg : (resetNow s).cfg = s.cfg := by simp [resetNow]

@[simp] theorem modeCas_cfg (old new : Byte) : (modeCas old new s).cfg = s.cfg := by
  unfold modeCas
  split <;> simp

/-! ### Reception -/

@[simp] theorem rxByte_cfg (b : Byte) : (rxByte b s).cfg = s.cfg := (RxKeeps.of_rxByte b s).cfg

@[simp] theorem feedStep_cfg : (feedStep s).cfg = s.cfg := by
  unfold feedStep
  split
  · rfl
  next b bs _ => exact (unlessHalted_cfg (rxByte b s) rfl).trans (rxByte_cfg s b)

@[simp] theorem pollBegin_cfg : (pollBegin s).cfg = s.cfg := by
  unfold pollBegin
  split <;> rfl

@[simp] theorem pollFeed_cfg (c : PollCtx) : (pollFeed c s).cfg = s.cfg :=
  (unlessHalted_cfg (rxByte (pollByteAt s c.j) s) rfl).trans (rxByte_cfg s _)

@[simp] theorem pollEnd_cfg (c : PollCtx) : (pollEnd c s).cfg = s.cfg := rfl

@[simp] theorem pollerStep_cfg : (pollerStep s).cfg = s.cfg := by
  unfold pollerStep
  split
  · split <;> simp
  · exact feedStep_cfg s

/-! ### Transmission -/

@[simp] theorem stepAcquire_cfg (k : Nat) (job : TxJob) : (stepAcquire k job s).cfg = s.cfg := by
  unfold stepAcquire
  split <;> rfl

@[simp] theorem releaseLock_cfg (k : Nat) (ok : Bool) : (releaseLock k ok s).cfg = s.cfg := rfl

@[simp] theorem endSend_cfg (k : Nat) (job : TxJob) (ok : Bool) : (endSend k job ok s).cfg = s.cfg := by
  cases job <;> rfl

@[simp] theorem stepPrepare_cfg (k : Nat) (ssid pass : List Byte) : (stepPrepare k ssid pass s).cfg = s.cfg := by
  unfold stepPrepare
  split <;> rfl

@[simp] theorem openSequence_cfg (chunks : List (List Byte)) : (openSequence chunks s).cfg = s.cfg := rfl

@[simp] theorem trackQuery_cfg (t v : Byte) : (trackQuery t v s).cfg = s.cfg := by rw [trackQuery_eq]

@[simp] theorem stepBuild_cfg (k : Nat) (job : TxJob) : (stepBuild k job s).cfg = s.cfg := by
  unfold stepBuild
  split <;> simp

@[simp] theorem chunkAnswer_cfg (started : Bool) (k : Nat) (job : TxJob) (q : TxSeq) :
    (chunkAnswer started k job q s).cfg = s.cfg := by
  unfold chunkAnswer
  split <;> simp

@[simp] theorem stepStart_cfg (k : Nat) (job : TxJob) : (stepStart k job s).cfg = s.cfg := by
  unfold stepStart
  split
  · rfl
  · split <;> simp

@[simp] theorem stepResume_cfg (k : Nat) (job : TxJob) : (stepResume k job s).cfg = s.cfg := by
  unfold stepResume
  split
  · rfl
  next q _ =>
    split
    · rfl
    · cases q.status with
      | running => rfl
      | fail => exact endSend_cfg _ k job false
      | ok =>
        dsimp only
        split <;> simp

@[simp] theorem commitIntron_cfg : (commitIntron s).cfg = s.cfg := casMode_cfg _ _ _

@[simp] theorem stepFinish_cfg (k : Nat) (ok : Bool) : (stepFinish k ok s).cfg = s.cfg := by
  cases ok
  · rfl
  · exact commitIntron_cfg s

/-- The next step of a SEND or JOIN_AP, at every stage. -/
@[simp] theorem stepTx_cfg (k : Nat) (job : TxJob) (stage : TxStage) : (stepTx k job stage s).cfg = s.cfg := by
  cases stage with
  | acquire => exact stepAcquire_cfg s k job
  | prepare =>
    cases job with
    | send t v frags => rfl
    | join ssid pass => exact stepPrepare_cfg s k ssid pass
  | build => exact stepBuild_cfg s k job
  | start => exact stepStart_cfg s k job
  | resume => exact stepResume_cfg s k job
  | delay => rfl
  | finish ok => exact stepFinish_cfg s k ok

@[simp] theorem txDone_cfg (st : DoneStatus) : (txDone st s).cfg = s.cfg := by
  unfold txDone
  split
  · cases st <;> rfl
  · rfl

/-! ### The steps -/

@[simp] theorem callerStep_cfg (k : Nat) (op : CallerOp) : (callerStep k op s).cfg = s.cfg := by
  cases op with
  | initWait =>
    simp only [callerStep]
    split <;> simp
  | resetWait =>
    simp only [callerStep]
    split <;> simp
  | tx job stage => exact stepTx_cfg s k job stage

/-- The first step of an instruction. -/
@[simp] theorem firstStep_cfg (i : Instr) : (firstStep i s).cfg = s.cfg := by
  cases i
  case init | reset | uartError =>
    simp only [firstStep]
    split <;> simp
  all_goals simp [firstStep]

end

/-- An instruction that answers a next state keeps the record. -/
theorem exec_cfg {i : Instr} {s t : State} (h : exec i s = .next t) : t.cfg = s.cfg := by
  obtain ⟨-, -, -, -, -, rfl⟩ := exec_next h
  exact firstStep_cfg s i

/-- So does a continuation. -/
theorem resumeAgent_cfg {s t : State} (h : resumeAgent s = .next t) : t.cfg = s.cfg := by
  obtain ⟨-, rfl | ⟨k, op, -, -, -, rfl⟩ | ⟨-, -, -, rfl⟩⟩ := resumeAgent_next h
  · rfl
  · exact callerStep_cfg s k op
  · exact pollerStep_cfg s

/-- Settles O4, by the three things a step can be: nothing, a continuation, an instruction's first step. -/
theorem stepKeepsConfiguration : Obligations.StepKeepsConfiguration := by
  intro s t h
  obtain ⟨-, ⟨-, rfl⟩ | ⟨a, rest, -, hresume⟩ | ⟨a, fmt, bytes, rest, i, -, -, hexec⟩⟩ := step_next h
  · rfl
  · exact (resumeAgent_cfg hresume).trans (takeInput_cfg s _ rest)
  · exact (exec_cfg hexec).trans (takeInput_cfg s _ rest)

end Sys2Proof.Machine
end

section
/-! The receive parser's registers (10_state R30 to R36), in two parts: the sizes of the buffers, alike in every resting
state, and what each resting state says of the chain and the bytes to come. -/

namespace Sys2Proof.Machine

open Sys2Proof

/-- The buffers have their sizes and the positions in them their ranges (10_state R31, R32, R35). -/
structure BuffersOk (cfg : Config) (p : Parser) : Prop where
  ibuf : p.ibuf.length = cfg.intronLen
  hbuf : p.hbuf.length = 8
  fbuf : p.fbuf.length = fixedCap cfg
  ipos : p.ipos < cfg.intronLen
  hpos : p.hpos < 8
  fpos : p.fpos ≤ fixedCap cfg

/-- What each resting state says of the chain, the type and the bytes to come (10_state R33 to R36, 43_rx_handlers R197). -/
def PhaseOk (cfg : Config) (p : Parser) : Prop :=
  match p.pstate with
  | .seekingIntron => p.chain = none
  | .header => p.chain = none
  | .checksumOnly =>
    p.chain = none ∧ (typeOf cfg.typeCode p.rtype).bind (fixedLen cfg) = some p.rsize.toNat ∧
      p.fpos + p.remain.toNat = p.rsize.toNat ∧ p.remain ≠ 0
  | .payloadStreaming =>
    typeOf cfg.typeCode p.rtype = some .packet ∧ p.remain ≠ 0 ∧ ∃ c, p.chain = some c ∧ cursorOk p c
  | .discard => p.chain = none ∧ p.remain ≠ 0

/-- The parser's part of the invariant is the buffers' part and the resting state's part. -/
theorem parserOk_iff {cfg : Config} {p : Parser} : parserOk cfg p ↔ BuffersOk cfg p ∧ PhaseOk cfg p := by
  constructor
  · rintro ⟨hi, hh, hf, hip, hhp, hfp, hchain, hfixed, hpacket, hcursor, hremain⟩
    have hnone : p.pstate ≠ .payloadStreaming → p.chain = none := fun hne =>
      Option.not_isSome_iff_eq_none.mp (mt hchain.mp hne)
    refine ⟨⟨hi, hh, hf, hip, hhp, hfp⟩, ?_⟩
    unfold PhaseOk
    cases hs : p.pstate with
    | seekingIntron => exact hnone (by simp [hs])
    | header => exact hnone (by simp [hs])
    | checksumOnly =>
      obtain ⟨hlen, hsum⟩ := hfixed hs
      exact ⟨hnone (by simp [hs]), hlen, hsum, hremain (.inl hs)⟩
    | payloadStreaming =>
      obtain ⟨c, hc⟩ := Option.isSome_iff_exists.mp (hchain.mpr hs)
      exact ⟨hpacket hs, hremain (.inr (.inl hs)), c, hc, hcursor c hc⟩
    | discard => exact ⟨hnone (by simp [hs]), hremain (.inr (.inr hs))⟩
  · rintro ⟨⟨hi, hh, hf, hip, hhp, hfp⟩, hphase⟩
    refine ⟨hi, hh, hf, hip, hhp, hfp, ?_⟩
    unfold PhaseOk at hphase
    cases hs : p.pstate with
    | payloadStreaming =>
      simp only [hs] at hphase
      obtain ⟨hpacket, hremain, c, hc, hcursor⟩ := hphase
      exact ⟨by simp [hc], by simp, fun _ => hpacket, by simpa [hc] using hcursor, fun _ => hremain⟩
    | seekingIntron | header | checksumOnly | discard => simp_all

/-- The buffers' part. -/
theorem parserOk.buffers {cfg : Config} {p : Parser} (h : parserOk cfg p) : BuffersOk cfg p := (parserOk_iff.mp h).1

section

variable {cfg : Config} {p : Parser}

/-- `EndFrame` rests in SEEKING_INTRON, once the chain is given up (42_rx_parser R166). -/
theorem parserOk_parserEnd (hb : BuffersOk cfg p) (hc : p.chain = none) : parserOk cfg (parserEnd p) :=
  parserOk_iff.mpr ⟨{ hb with ipos := Nat.zero_lt_of_lt hb.ipos, hpos := Nat.zero_lt_succ 7, fpos := Nat.zero_le _ }, hc⟩

/-- `StartDiscard(n)` rests in SEEKING_INTRON or in DISCARD (R166). -/
theorem parserOk_parserDiscarding (n : U16) (hb : BuffersOk cfg p) (hc : p.chain = none) :
    parserOk cfg (parserDiscarding n p) := by
  unfold parserDiscarding
  split
  next => exact parserOk_parserEnd hb hc
  next hn => exact parserOk_iff.mpr ⟨{ hb with }, hc, hn⟩

/-- INIT and RESET put the parser into SEEKING_INTRON with no chain (45_control R240, R241). -/
theorem parserOk_parserReset (hb : BuffersOk cfg p) : parserOk cfg (parserReset p) :=
  parserOk_iff.mpr
    ⟨{ hb with ipos := Nat.zero_lt_of_lt hb.ipos, hpos := Nat.zero_lt_succ 7, fpos := Nat.zero_le _ }, rfl⟩

/-- A byte fewer to come. -/
theorem countByte_remain (h : p.remain ≠ 0) : (countByte p).remain.toNat + 1 = p.remain.toNat := by
  have : p.remain.toNat ≠ 0 := fun h0 => h (BitVec.eq_of_toNat_eq h0)
  simp only [countByte]
  bv_omega

/-! ### The chain writer (20_memory R65) -/

/-- `ChainWrite(b)` as one update: the byte at the cursor, and the cursor one byte on. -/
theorem chainWrite_eq {c : Chain} (b : Byte) (h : p.chain = some c) :
    chainWrite b p =
      { p with
        chain := some (putByte c p.curFrag p.curOff b)
        curFrag := if p.curOff + 1 = (c.getD p.curFrag []).length then p.curFrag + 1 else p.curFrag
        curOff := if p.curOff + 1 = (c.getD p.curFrag []).length then 0 else p.curOff + 1 } := by
  simp only [chainWrite, h]
  split <;> rfl

/-- A write leaves no fragment empty that was not. -/
theorem putByte_nonempty {c : Chain} (j off : Nat) (b : Byte) (h : ∀ f ∈ c, f ≠ []) : ∀ f ∈ putByte c j off b, f ≠ [] := by
  rintro f hf rfl
  have hlen : ([] : List Byte).length ∈ c.map List.length := putByte_lengths c j off b ▸ List.mem_map_of_mem hf
  obtain ⟨g, hg, hg0⟩ := List.mem_map.mp hlen
  exact h g hg (List.length_eq_zero_iff.mp hg0)

/-- While bytes are to come, the cursor that leaves a full fragment stands at the first byte of a next one. -/
theorem cursor_next_fragment {c : Chain} {j : Nat} (hne : ∀ f ∈ c, f ≠ []) (hj : j < c.length)
    (hmore : (c.take j).flatten.length + (c.getD j []).length < c.flatten.length) :
    j + 1 < c.length ∧ 0 < (c.getD (j + 1) []).length := by
  have hlt : j + 1 < c.length := by
    by_contra hge
    have htake := take_succ_flatten_length c j hj
    have hall := take_all_flatten_length c (j + 1) (Nat.le_of_not_lt hge)
    omega
  refine ⟨hlt, ?_⟩
  rw [List.getD_eq_getElem _ _ hlt]
  exact List.length_pos_iff.mpr (hne _ (List.getElem_mem hlt))

/-- A written byte moves the cursor to the next byte, as long as one is to come (20_memory R65). -/
theorem cursorOk_chainWrite {c : Chain} (b : Byte) (hc : p.chain = some c) (h : cursorOk p c) (hr : p.remain ≠ 0)
    (hmore : (countByte (chainWrite b p)).remain ≠ 0) :
    cursorOk (countByte (chainWrite b p)) (putByte c p.curFrag p.curOff b) := by
  obtain ⟨hne, htotal, hfrag, hoff, hsum⟩ := h
  rw [chainWrite_eq b hc] at hmore ⊢
  have hcount := countByte_remain hr
  have hpos : (countByte p).remain.toNat ≠ 0 := fun h0 => hmore (BitVec.eq_of_toNat_eq h0)
  refine ⟨putByte_nonempty _ _ b hne, (putByte_flatten_length c _ _ b).trans htotal, ?_⟩
  simp only [countByte, putByte_length, putByte_getD_length, take_flatten_length (putByte_lengths c _ _ b)] at hcount hpos ⊢
  split
  next hlast =>
    obtain ⟨hfrag', hoff'⟩ := cursor_next_fragment hne hfrag (by omega)
    have htake := take_succ_flatten_length c p.curFrag hfrag
    exact ⟨hfrag', hoff', by omega⟩
  next hinner => exact ⟨hfrag, by omega, by omega⟩

/-- A fresh chain that the collaborator gives for a payload begins with its cursor in range (20_memory R64). -/
theorem cursorOk_freshChain {lens : List Nat} (hsum : lens.sum = p.rsize.toNat) (hpos : ∀ l ∈ lens, 1 ≤ l)
    (hsize : p.rsize ≠ 0) (hfrag : p.curFrag = 0) (hoff : p.curOff = 0) (hremain : p.remain = p.rsize) :
    cursorOk p (freshChain lens) := by
  have hne := freshChain_nonempty lens hpos
  have htotal : (freshChain lens).flatten.length = p.rsize.toNat := (freshChain_bytes_length lens).trans hsum
  have hsize' : p.rsize.toNat ≠ 0 := fun h0 => hsize (BitVec.eq_of_toNat_eq h0)
  refine ⟨hne, htotal, ?_⟩
  rw [hfrag, hoff, hremain]
  cases hc : freshChain lens with
  | nil => simp_all
  | cons f fs =>
    have hf : f ≠ [] := hne f (hc ▸ List.mem_cons_self)
    simpa using List.length_pos_iff.mpr hf

end

end Sys2Proof.Machine
end

section
/-! What a received byte comes to: it is taken and the parser rests, or it ends a frame, whose handler then runs within the
step (42_rx_parser R160 to R167). -/

namespace Sys2Proof.Machine

open Sys2Proof

/-! ### The completed frame -/

/-- The registers at `Dispatch` (R162 to R164, R167): a PACKET with no payload at the end of its header, a fixed payload
of its type's length in FBUF, or a PACKET with its chain. -/
inductive FrameDone (cfg : Config) (p : Parser) : Prop where
  | keepalive (type : typeOf cfg.typeCode p.rtype = some .packet) (size : p.rsize = 0) (state : p.pstate = .header)
      (chain : p.chain = none)
  | fixed (len : (typeOf cfg.typeCode p.rtype).bind (fixedLen cfg) = some p.rsize.toNat) (state : p.pstate = .checksumOnly)
      (chain : p.chain = none)
  | packet (c : Chain) (type : typeOf cfg.typeCode p.rtype = some .packet) (size : p.rsize ≠ 0)
      (state : p.pstate = .payloadStreaming) (chain : p.chain = some c)

/-- A fixed length fits FBUF (00_scope R9). -/
theorem fixedLen_le {cfg : Config} {t : MsgType} {n : Nat} (h : fixedLen cfg t = some n) : n ≤ fixedCap cfg := by
  unfold fixedCap
  cases t <;> simp only [fixedLen, Option.some.injEq, reduceCtorEq] at h <;> omega

/-- A fixed length is not 0 in a record that R7 admits. -/
theorem fixedLen_pos {cfg : Config} {t : MsgType} {n : Nat} (hc : configOk cfg) (h : fixedLen cfg t = some n) : n ≠ 0 := by
  obtain ⟨-, -, hdev, hcount, hinfo, -⟩ := hc
  cases t <;> simp only [fixedLen, Option.some.injEq, reduceCtorEq] at h <;> omega

/-- A frame of a fixed-payload type completes with a payload of that length. -/
theorem FrameDone.payload_length {cfg : Config} {p : Parser} {t : MsgType} {n : Nat} (h : FrameDone cfg p)
    (hb : BuffersOk cfg p) (ht : typeOf cfg.typeCode p.rtype = some t) (hn : fixedLen cfg t = some n) :
    (dispatchPayload p).length = n := by
  cases h with
  | fixed len state _ =>
    have hsize : n = p.rsize.toNat := by simpa [ht, hn] using len
    have hcap := fixedLen_le hn
    simp only [dispatchPayload, state, List.length_take, hb.fbuf]
    omega
  | keepalive type _ _ _ =>
    cases type.symm.trans ht
    cases hn
  | packet _ type _ _ _ =>
    cases type.symm.trans ht
    cases hn

/-! ### The handlers -/

section

variable (payload : List Byte) (s : State)

@[simp] theorem handleDeviceInfo_rx : (handleDeviceInfo payload s).rx = s.rx := by rw [handleDeviceInfo, casMode_eq]

@[simp] theorem handleWrongVersion_rx : (handleWrongVersion s).rx = s.rx := by rw [handleWrongVersion, casMode_eq]

@[simp] theorem handleApCount_rx : (handleApCount payload s).rx = s.rx := rfl

@[simp] theorem handleApInfo_rx : (handleApInfo payload s).rx = s.rx := by
  unfold handleApInfo
  split <;> rfl

/-- A keepalive's effects, as one update (R198, R203). -/
theorem handleKeepalive_eq :
    handleKeepalive s =
      { s with
        sess := sessionLinked s.rx.rvar s.sess
        out.netifLink := s.out.netifLink ++ linkNotes s.rx.rvar s.sess } := linkFlag_markActivity _ s

/-- A PACKET's effects, as one update (R196, R203). -/
theorem handlePacket_eq :
    handlePacket s =
      { s with
        sess := sessionLinked s.rx.rvar s.sess
        rx.chain := none
        out.netifLink := s.out.netifLink ++ linkNotes s.rx.rvar s.sess
        out.delivered := s.out.delivered ++ s.rx.chain.toList.map chainBytes } := by
  rw [handlePacket, linkFlag_markActivity, deliverChain_eq]

/-- A bad checksum's effects, as one update (R190, R197, R202). -/
theorem handleBadChecksum_eq :
    handleBadChecksum s =
      { s with
        rx.chain := none
        out.events := s.out.events ++ [.crcMismatch s.rx.rtype]
        tasks.released := s.tasks.released ++ s.rx.chain.toList } := by
  rw [handleBadChecksum, releaseChain_eq]
  rfl

end

/-- A PACKET's handler, by its size (R190, R196, R198). -/
theorem handle_packet (payload : List Byte) (s : State) :
    handle (some .packet) true payload s = if s.rx.rsize = 0 then handleKeepalive s else handlePacket s := rfl

/-- Every type's handler where the checksum is wrong (R190). -/
theorem handle_bad (t : Option MsgType) (payload : List Byte) (s : State) :
    handle t false payload s = handleBadChecksum s := rfl

/-- What `Handle` leaves of the parser, where no chain is held or the frame is a PACKET with one: the chain is given up,
delivered or released (43_rx_handlers R190, R196, R197). -/
theorem handle_rx {t : Option MsgType} (ok : Bool) (payload : List Byte) {s : State}
    (h : s.rx.chain = none ∨ t = some .packet ∧ s.rx.rsize ≠ 0) :
    (handle t ok payload s).rx = { s.rx with chain := none } := by
  cases ok with
  | false => rw [handle_bad, handleBadChecksum_eq]
  | true =>
    obtain hnone | ⟨rfl, hsize⟩ := h
    · have hrx : { s.rx with chain := none } = s.rx := by rw [← hnone]
      unfold handle
      simp only [if_true, hrx]
      split
      next => split <;> simp
      next => simp
      next => simp
      next =>
        split
        · rw [handleKeepalive_eq]
        · rw [handlePacket_eq, hrx]
      next => rfl
    · rw [handle_packet, if_neg hsize, handlePacket_eq]

/-- The session's buffers have their lengths: MAC, and the payload of an AP-info record (10_state R27, R29). -/
abbrev SlotsOk (cfg : Config) (q : Session) : Prop :=
  (∀ m ∈ q.mac, m.length = 6) ∧ ∀ e ∈ q.apSlot, e.2.length = cfg.apInfoLen

/-- `Handle` keeps them, given a DEVICE_INFO of at least 6 bytes and a SCAN_AP_INFO of its length (R191, R194). -/
theorem handle_slots {t : Option MsgType} (ok : Bool) {payload : List Byte} {s : State} (h : SlotsOk s.cfg s.sess)
    (hdev : t = some .deviceInfo → 6 ≤ payload.length) (hinfo : t = some .scanApInfo → payload.length = s.cfg.apInfoLen) :
    SlotsOk s.cfg (handle t ok payload s).sess := by
  cases ok with
  | false =>
    rw [handle_bad, handleBadChecksum_eq]
    exact h
  | true =>
    obtain ⟨hmac, hslot⟩ := h
    unfold handle
    simp only [if_true]
    split
    next =>
      split
      · rw [handleDeviceInfo, casMode_eq]
        exact ⟨by simpa using hdev rfl, hslot⟩
      · rw [handleWrongVersion, casMode_eq]
        exact ⟨hmac, hslot⟩
    next => exact ⟨hmac, hslot⟩
    next =>
      unfold handleApInfo
      split
      · exact ⟨hmac, by simpa using hinfo rfl⟩
      · exact ⟨hmac, hslot⟩
    next =>
      split
      · rw [handleKeepalive_eq]
        exact ⟨hmac, hslot⟩
      · rw [handlePacket_eq]
        exact ⟨hmac, hslot⟩
    next => exact ⟨hmac, hslot⟩

section

variable {s : State} {p : Parser}

/-- After `Dispatch` no chain is held, and the parser's registers are as they were. -/
theorem dispatch_rx (h : FrameDone s.cfg p) : (dispatch { s with rx := p }).rx = { p with chain := none } := by
  refine handle_rx _ _ ?_
  cases h with
  | keepalive _ _ _ chain => exact .inl chain
  | fixed _ _ chain => exact .inl chain
  | packet _ type size _ _ => exact .inr ⟨type, size⟩

/-- `Dispatch` keeps MAC's and the AP-info record's lengths. -/
theorem dispatch_slots (hc : configOk s.cfg) (hb : BuffersOk s.cfg p) (h : FrameDone s.cfg p) (hs : SlotsOk s.cfg s.sess) :
    SlotsOk s.cfg (dispatch { s with rx := p }).sess := by
  obtain ⟨-, -, hdev, -⟩ := hc
  refine handle_slots (s := { s with rx := p }) _ hs (fun ht => ?_) (fun ht => h.payload_length hb ht rfl)
  rw [h.payload_length hb ht rfl, hdev]

/-! ### A byte, by parser state -/

/-- What a byte comes to: the parser rests with the session untouched, or a completed frame has been dispatched. -/
def RestsOrDispatches (s t : State) : Prop :=
  ((configOk s.cfg → parserOk s.cfg t.rx) ∧ t.sess = s.sess) ∨
    ∃ p, t = endFrame (dispatch { s with rx := p }) ∧ BuffersOk s.cfg p ∧ FrameDone s.cfg p

/-- RX_BYTE in SEEKING_INTRON (R160). -/
theorem seekByte_rests (b : Byte) (hb : BuffersOk s.cfg s.rx) (hc : s.rx.chain = none) (hs : s.rx.pstate = .seekingIntron) :
    RestsOrDispatches s (seekByte b s) := by
  have hipos := hb.ipos
  have hzero := Nat.zero_lt_of_lt hb.ipos
  have hset : ∀ i, (s.rx.ibuf.set i b).length = s.cfg.intronLen := fun i => List.length_set.trans hb.ibuf
  unfold seekByte
  split
  · split
    next =>
      rw [reportSkipped_eq]
      exact .inl ⟨fun _ => parserOk_iff.mpr
        ⟨{ hb with ibuf := hset _, ipos := hzero, hpos := Nat.zero_lt_succ 7 }, hc⟩, rfl⟩
    next hmore =>
      have hnext : s.rx.ipos + 1 < s.cfg.intronLen := by omega
      exact .inl ⟨fun _ => parserOk_iff.mpr
        ⟨{ hb with ibuf := hset _, ipos := hnext }, by simpa [PhaseOk, matchByte, hs] using hc⟩, rfl⟩
  · split
    next =>
      refine .inl ⟨fun hcfg => parserOk_iff.mpr
        ⟨{ hb with ibuf := hset _, ipos := ?_ }, by simpa [PhaseOk, restartByte, hs] using hc⟩, rfl⟩
      obtain ⟨hlen, -⟩ := hcfg
      exact Nat.lt_of_lt_of_le (show 1 < 4 by decide) hlen
    next =>
      exact .inl ⟨fun _ => parserOk_iff.mpr
        ⟨{ hb with ipos := hzero }, by simpa [PhaseOk, skipByte, hs] using hc⟩, rfl⟩

/-- `StartDiscard(n)` rests, after an event or without (R166). -/
theorem startDiscard_rests {t : State} (n : U16) (hb : BuffersOk s.cfg t.rx) (hc : t.rx.chain = none)
    (hsess : t.sess = s.sess) : RestsOrDispatches s (startDiscard n t) := by
  rw [startDiscard_eq]
  exact .inl ⟨fun _ => parserOk_parserDiscarding n hb hc, hsess⟩

/-- The header of a fixed-payload type (R162). -/
theorem fixedHeader_rests {t : MsgType} {n : Nat} (hb : BuffersOk s.cfg p) (hc : p.chain = none)
    (ht : typeOf s.cfg.typeCode p.rtype = some t) (hn : fixedLen s.cfg t = some n) :
    RestsOrDispatches s (fixedHeader n { s with rx := p }) := by
  unfold fixedHeader
  split
  next hlen =>
    have hlen : p.rsize.toNat = n := hlen
    refine .inl ⟨fun hcfg => parserOk_iff.mpr ⟨{ hb with fpos := Nat.zero_le _ }, hc, ?_, Nat.zero_add _, ?_⟩, rfl⟩
    · simp [ht, hn, hlen]
    · rintro (hzero : p.rsize = 0)
      exact fixedLen_pos hcfg hn (hlen ▸ congrArg BitVec.toNat hzero)
  next => exact startDiscard_rests _ hb hc rfl

/-- The header of a PACKET with a payload, whatever the collaborator answers (R162, R199). -/
theorem packetHeader_rests (hb : BuffersOk s.cfg p) (hc : p.chain = none)
    (ht : typeOf s.cfg.typeCode p.rtype = some .packet) (hsize : p.rsize ≠ 0) :
    RestsOrDispatches s (packetHeader { s with rx := p }) := by
  unfold packetHeader openChain
  split
  next => exact startDiscard_rests _ hb hc rfl
  next lens hlens =>
    obtain ⟨hsum, hpos⟩ := drawAlloc_legal _ _ _ hlens
    exact .inl ⟨fun _ => parserOk_iff.mpr
      ⟨{ hb with }, ht, hsize, _, rfl, cursorOk_freshChain hsum hpos hsize rfl rfl rfl⟩, rfl⟩

/-- The path of a decoded header (R162). -/
theorem headerPath_rests_or_dispatches (hb : BuffersOk s.cfg p) (hc : p.chain = none) (hs : p.pstate = .header) :
    RestsOrDispatches s (headerPath { s with rx := p }) := by
  unfold headerPath
  split
  next =>
    unfold invalidHeader
    split
    · exact .inl ⟨fun _ => parserOk_iff.mpr ⟨hb, by simpa [PhaseOk, hs] using hc⟩, rfl⟩
    · exact startDiscard_rests _ hb hc rfl
  next ht =>
    split
    next hsize => exact .inr ⟨p, rfl, hb, .keepalive ht hsize hs hc⟩
    next hsize => exact packetHeader_rests hb hc ht hsize
  next ht => exact fixedHeader_rests hb hc ht rfl
  next ht => exact fixedHeader_rests hb hc ht rfl
  next ht => exact fixedHeader_rests hb hc ht rfl
  all_goals exact startDiscard_rests _ hb hc rfl

/-- RX_BYTE in HEADER (R161). -/
theorem headerByte_rests_or_dispatches (b : Byte) (hb : BuffersOk s.cfg s.rx) (hc : s.rx.chain = none)
    (hs : s.rx.pstate = .header) : RestsOrDispatches s (headerByte b s) := by
  have hhpos := hb.hpos
  have hset : (s.rx.hbuf.set s.rx.hpos b).length = 8 := List.length_set.trans hb.hbuf
  unfold headerByte
  split
  next => exact headerPath_rests_or_dispatches { hb with hbuf := hset, hpos := Nat.zero_lt_succ 7 } hc hs
  next hmore =>
    have hnext : s.rx.hpos + 1 < 8 := by omega
    exact .inl ⟨fun _ => parserOk_iff.mpr
      ⟨{ hb with hbuf := hset, hpos := hnext }, by simpa [PhaseOk, collectByte, hs] using hc⟩, rfl⟩

/-- The end of a payload byte (R163, R164). -/
theorem finishPayload_rests_or_dispatches (hb : BuffersOk s.cfg p) (hmore : p.remain ≠ 0 → PhaseOk s.cfg p)
    (hdone : p.remain = 0 → FrameDone s.cfg p) : RestsOrDispatches s (finishPayload { s with rx := p }) := by
  unfold finishPayload
  split
  next hlast => exact .inr ⟨p, rfl, hb, hdone hlast⟩
  next hnot => exact .inl ⟨fun _ => parserOk_iff.mpr ⟨hb, hmore hnot⟩, rfl⟩

/-- RX_BYTE in CHECKSUM_ONLY (R163). -/
theorem bufferByte_rests_or_dispatches (b : Byte) (hb : BuffersOk s.cfg s.rx) (hphase : PhaseOk s.cfg s.rx)
    (hs : s.rx.pstate = .checksumOnly) : RestsOrDispatches s (bufferByte b s) := by
  simp only [PhaseOk, hs] at hphase
  obtain ⟨hchain, hlen, hsum, hremain⟩ := hphase
  have hcount := countByte_remain hremain
  obtain ⟨t, -, hfixed⟩ := Option.bind_eq_some_iff.mp hlen
  have hcap := fixedLen_le hfixed
  have hfpos : s.rx.fpos + 1 ≤ fixedCap s.cfg := by omega
  have hfbuf : (s.rx.fbuf.set s.rx.fpos b).length = fixedCap s.cfg := List.length_set.trans hb.fbuf
  refine finishPayload_rests_or_dispatches { hb with fbuf := hfbuf, fpos := hfpos } (fun hmore => ?_)
    (fun _ => .fixed hlen hs hchain)
  simp only [PhaseOk, countByte, bufferPut, hs] at hmore hcount ⊢
  exact ⟨hchain, hlen, by omega, hmore⟩

/-- RX_BYTE in PAYLOAD_STREAMING (R164). -/
theorem streamByte_rests_or_dispatches (b : Byte) (hb : BuffersOk s.cfg s.rx) (hphase : PhaseOk s.cfg s.rx)
    (hs : s.rx.pstate = .payloadStreaming) : RestsOrDispatches s (streamByte b s) := by
  simp only [PhaseOk, hs] at hphase
  obtain ⟨ht, hremain, c, hc, hcursor⟩ := hphase
  have hcount := countByte_remain hremain
  have hcursor' := cursorOk_chainWrite b hc hcursor hremain
  obtain ⟨-, -, -, -, hsum⟩ := hcursor
  have hsize : s.rx.rsize ≠ 0 := by
    intro hzero
    have hzero : s.rx.rsize.toNat = 0 := congrArg BitVec.toNat hzero
    omega
  unfold streamByte
  rw [chainWrite_eq b hc] at hcursor' ⊢
  refine finishPayload_rests_or_dispatches { hb with } (fun hmore => ?_) (fun _ => .packet _ ht hsize hs rfl)
  simp only [PhaseOk, countByte, hs] at hmore ⊢
  exact ⟨ht, hmore, _, rfl, hcursor' hmore⟩

/-- RX_BYTE in DISCARD (R165). -/
theorem discardByte_rests (hb : BuffersOk s.cfg s.rx) (hc : s.rx.chain = none) (hs : s.rx.pstate = .discard) :
    RestsOrDispatches s (discardByte s) := by
  unfold discardByte finishDiscard
  split
  next => exact .inl ⟨fun _ => parserOk_parserEnd { hb with } hc, rfl⟩
  next hmore => exact .inl ⟨fun _ => parserOk_iff.mpr ⟨{ hb with }, by simpa [PhaseOk, countByte, hs] using ⟨hc, hmore⟩⟩, rfl⟩

/-- A received byte from a consistent parser leaves it resting, or completes a frame (R160 to R165). -/
theorem rxByte_rests_or_dispatches (b : Byte) (h : parserOk s.cfg s.rx) : RestsOrDispatches s (rxByte b s) := by
  obtain ⟨hb, hphase⟩ := parserOk_iff.mp h
  unfold rxByte
  split
  next hs => exact seekByte_rests b hb (by simpa [PhaseOk, hs] using hphase) hs
  next hs => exact headerByte_rests_or_dispatches b hb (by simpa [PhaseOk, hs] using hphase) hs
  next hs => exact bufferByte_rests_or_dispatches b hb hphase hs
  next hs => exact streamByte_rests_or_dispatches b hb hphase hs
  next hs =>
    simp only [PhaseOk, hs] at hphase
    exact discardByte_rests hb hphase.1 hs

/-- A received byte keeps the parser's part of the invariant and the lengths of MAC and the AP-info record. -/
theorem rxByte_keeps_parser_and_slots (b : Byte) (hc : configOk s.cfg) (hp : parserOk s.cfg s.rx)
    (hs : SlotsOk s.cfg s.sess) : parserOk s.cfg (rxByte b s).rx ∧ SlotsOk s.cfg (rxByte b s).sess := by
  obtain ⟨hrest, hsess⟩ | ⟨p, heq, hb, hdone⟩ := rxByte_rests_or_dispatches b hp
  · exact ⟨hrest hc, hsess ▸ hs⟩
  · rw [heq, endFrame_rx, endFrame_sess, dispatch_rx hdone]
    exact ⟨parserOk_parserEnd { hb with } rfl, dispatch_slots hc hb hdone hs⟩

end

end Sys2Proof.Machine
end

section
/-! ACTIVITY (10_state R26): of the handlers only a PACKET's with the right checksum sets it. -/

namespace Sys2Proof.Machine

open Sys2Proof

/-- `CheckFrame`, as an equation of checksums (40_codec R114). -/
theorem checkFrame_iff {cfg : Config} {p : Parser} {payload : List Byte} :
    checkFrame cfg p payload = true ↔ frameCrc cfg.crc p.ibuf (p.hbuf.take 4) payload = p.rcrc := by
  simp [checkFrame]

/-- Only a PACKET whose checksum is right sets ACTIVITY (43_rx_handlers R196, R198). -/
theorem handle_sets_activity {t : Option MsgType} {ok : Bool} {payload : List Byte} {s : State}
    (hbefore : s.sess.activity = false) (hafter : (handle t ok payload s).sess.activity = true) :
    t = some .packet ∧ ok = true := by
  cases ok with
  | false =>
    rw [handle_bad, handleBadChecksum_eq] at hafter
    simp_all
  | true =>
    refine ⟨?_, rfl⟩
    by_contra hne
    have hsame : (handle t true payload s).sess.activity = s.sess.activity := by
      unfold handle
      simp only [if_true]
      split
      next => split <;> simp [handleDeviceInfo, handleWrongVersion, casMode_eq]
      next => rfl
      next => unfold handleApInfo; split <;> rfl
      next => exact absurd rfl hne
      next => rfl
    simp_all

/-- A frame that sets ACTIVITY when it is dispatched is a PACKET, and its checksum is right for the payload: none where the
size is 0, else the packet delivered (R196, R198). -/
theorem dispatch_sets_activity {s : State} {p : Parser} (hdone : FrameDone s.cfg p) (hbefore : s.sess.activity = false)
    (hafter : (dispatch { s with rx := p }).sess.activity = true) :
    typeOf s.cfg.typeCode p.rtype = some .packet ∧
    frameCrc s.cfg.crc p.ibuf (p.hbuf.take 4) (dispatchPayload p) = p.rcrc ∧
    if p.rsize = 0 then dispatchPayload p = []
    else (dispatch { s with rx := p }).out.delivered = s.out.delivered ++ [dispatchPayload p] := by
  obtain ⟨htype, hok⟩ := handle_sets_activity (s := { s with rx := p }) hbefore hafter
  dsimp only at htype hok
  refine ⟨htype, checkFrame_iff.mp hok, ?_⟩
  cases hdone with
  | keepalive _ size state _ =>
    rw [if_pos size]
    simp only [dispatchPayload, state]
  | fixed len _ _ =>
    rw [htype] at len
    cases len
  | packet c _ size state chain =>
    have hpayload : dispatchPayload p = chainBytes c := by simp only [dispatchPayload, state, chain, Option.getD_some]
    rw [if_neg size, hpayload]
    unfold dispatch
    dsimp only
    rw [htype, hok, handle_packet, if_neg size, handlePacket_eq]
    simp [chain]

/-- Settles O48: a byte that leaves the parser resting leaves the session alone, so it is the dispatch of a completed frame
that sets ACTIVITY, and `EndFrame` keeps the header as received. -/
theorem activityComesOnlyFromAValidPacket : Obligations.ActivityComesOnlyFromAValidPacket := by
  intro s b hp hbefore hafter
  obtain ⟨-, hsess⟩ | ⟨p, heq, -, hdone⟩ := rxByte_rests_or_dispatches b hp
  · rw [hsess, hbefore] at hafter
    cases hafter
  · rw [heq] at hafter ⊢
    rw [endFrame_rx, dispatch_rx hdone]
    obtain ⟨htype, hcrc, hpayload⟩ := dispatch_sets_activity hdone hbefore hafter
    exact ⟨htype, dispatchPayload p, hcrc, hpayload⟩

end Sys2Proof.Machine
end

section
/-! The transmit part of the invariant (10_state R43 to R46, 20_memory R76), in two: who holds the writer lock, and what the
transmit registers hold while the holder stands at a step. A step of the transmit framer moves one caller, so each keeps the
first part by one lemma, `CallersOk.set`, and has the second to show for the one step it goes to. -/

namespace Sys2Proof.Machine

open Sys2Proof

/-! ### The two parts -/

/-- Every caller of the configuration has its entry, and the lock names the one caller that holds it (R43). -/
def CallersOk (cfg : Config) (callers : List (Option CallerOp)) (lock : Option Nat) : Prop :=
  callers.length = cfg.nCallers ∧ (∀ k ∈ lock, k < callers.length) ∧
  ∀ k, k < callers.length → ((callers.getD k none).any holdsLock = true ↔ lock = some k)

/-- PENDING_INTRON is held exactly while the lock's holder is a JOIN_AP behind J1, and is a legal intron (R46). -/
abbrev PendingOk (cfg : Config) (tx : Tx) (holder : Option (TxJob × TxStage)) : Prop :=
  (tx.pendingIntron.isSome = true ↔ holder.any holdsIntron = true) ∧ ∀ i ∈ tx.pendingIntron, intronOk cfg i

/-- The transmit registers while the lock's holder, if any, stands at this step of its job (R44 to R46). -/
def RegsOk (cfg : Config) (tx : Tx) (holder : Option (TxJob × TxStage)) : Prop :=
  (tx.seq.isSome = true ↔ holder.any (fun h => sendsChunks h.2) = true) ∧
  (tx.pending = true → holder.any (fun h => h.2 == .resume) = true) ∧
  (∀ q ∈ tx.seq, q.k < q.chunks.length) ∧
  (∀ q ∈ tx.seq, holder.any (fun h => h.2 == .resume) = true →
    q.cur = q.chunks[q.k]? ∧ (tx.pending = true ↔ q.status = .running)) ∧
  PendingOk cfg tx holder

theorem txOk_iff {s : State} :
    txOk s ↔ CallersOk s.cfg s.tasks.callers s.tx.lock ∧ RegsOk s.cfg s.tx (lockHolder s) := by
  constructor
  · rintro ⟨hlen, hlock, hholds, hregs⟩
    exact ⟨⟨hlen, hlock, hholds⟩, hregs⟩
  · rintro ⟨⟨hlen, hlock, hholds⟩, hregs⟩
    exact ⟨hlen, hlock, hholds, hregs⟩

/-! ### The holder -/

theorem holdsLock_tx {job : TxJob} {stage : TxStage} : holdsLock (.tx job stage) = true ↔ stage ≠ .acquire := by
  simp [holdsLock]

theorem lockHolder_free {s : State} (h : s.tx.lock = none) : lockHolder s = none := by
  simp only [lockHolder, h]

theorem lockHolder_held {s : State} {k : Nat} {job : TxJob} {stage : TxStage} (h : s.tx.lock = some k)
    (hop : callerOp s k = some (.tx job stage)) : lockHolder s = some (job, stage) := by
  simp only [lockHolder, h, hop]

/-- A caller behind S0 of its operation holds the lock (R43). -/
theorem txOk.lock_of_holder {s : State} {k : Nat} {op : CallerOp} (h : txOk s) (hop : callerOp s k = some op)
    (hholds : holdsLock op = true) : s.tx.lock = some k := by
  obtain ⟨-, -, hone, -⟩ := h
  exact (hone k (callerOp_lt hop)).mp (by simpa [hop] using hholds)

/-- A caller that holds no lock is not the one the lock names. -/
theorem txOk.lock_ne {s : State} {k : Nat} (h : txOk s) (hop : (callerOp s k).any holdsLock = false) :
    s.tx.lock ≠ some k := by
  intro hlock
  obtain ⟨-, hlt, hone, -⟩ := h
  have hholds := (hone k (hlt k hlock)).mpr hlock
  simp [hop] at hholds

/-- One caller goes to a step, and the lock to it or from it, if to or from any (R43). -/
theorem CallersOk.set {cfg : Config} {callers : List (Option CallerOp)} {lock lock' : Option Nat} {k : Nat}
    {op : Option CallerOp} (h : CallersOk cfg callers lock) (hk : k < callers.length)
    (hthis : op.any holdsLock = true ↔ lock' = some k) (hothers : ∀ j, j ≠ k → (lock' = some j ↔ lock = some j)) :
    CallersOk cfg (callers.set k op) lock' := by
  obtain ⟨hlen, hlt, hone⟩ := h
  refine ⟨List.length_set.trans hlen, fun j hj => ?_, fun j hj => ?_⟩ <;> rw [List.length_set] at *
  · by_cases hjk : j = k
    · exact hjk ▸ hk
    · exact hlt j ((hothers j hjk).mp hj)
  · by_cases hjk : j = k
    · subst hjk
      simpa [hk] using hthis
    · rw [hothers j hjk, ← hone j hj]
      simp [Ne.symm hjk]

section

variable {s t : State} {k : Nat} {job : TxJob} {stage : TxStage}

/-- The lock's holder goes from one step to another (41_transmit R130, R136). -/
theorem txOk_goOn (h : txOk s) {op : CallerOp} (hop : callerOp s k = some op) (hholds : holdsLock op = true)
    (hstage : stage ≠ .acquire) (hcfg : t.cfg = s.cfg) (hlock : t.tx.lock = s.tx.lock)
    (hcallers : t.tasks.callers = s.tasks.callers.set k (some (.tx job stage)))
    (hregs : RegsOk s.cfg t.tx (some (job, stage))) : txOk t := by
  have hlk : s.tx.lock = some k := h.lock_of_holder hop hholds
  have hk := callerOp_lt hop
  have hop' : callerOp t k = some (.tx job stage) := by simp [callerOp, hcallers, hk]
  rw [txOk_iff, hcfg, hcallers, lockHolder_held (hlock.trans hlk) hop', hlock]
  refine ⟨(txOk_iff.mp h).1.set hk ?_ fun _ _ => Iff.rfl, hregs⟩
  simp [hlk, holdsLock, hstage]

/-- The lock's holder returns, and frees it (R130, R136). -/
theorem txOk_return (h : txOk s) {op : CallerOp} (hop : callerOp s k = some op) (hholds : holdsLock op = true)
    (hcfg : t.cfg = s.cfg) (hlock : t.tx.lock = none) (hcallers : t.tasks.callers = s.tasks.callers.set k none)
    (hregs : RegsOk s.cfg t.tx none) : txOk t := by
  have hlk : s.tx.lock = some k := h.lock_of_holder hop hholds
  rw [txOk_iff, hcfg, hcallers, lockHolder_free hlock, hlock]
  refine ⟨(txOk_iff.mp h).1.set (callerOp_lt hop) (by simp) fun j hj => ?_, hregs⟩
  simp [hlk, Ne.symm hj]

/-- A caller takes the free lock (R130). -/
theorem txOk_take (h : txOk s) (hk : k < s.tasks.callers.length) (hfree : s.tx.lock = none) (hstage : stage ≠ .acquire)
    (hcfg : t.cfg = s.cfg) (hlock : t.tx.lock = some k)
    (hcallers : t.tasks.callers = s.tasks.callers.set k (some (.tx job stage)))
    (hregs : RegsOk s.cfg t.tx (some (job, stage))) : txOk t := by
  have hop' : callerOp t k = some (.tx job stage) := by simp [callerOp, hcallers, hk]
  rw [txOk_iff, hcfg, hcallers, lockHolder_held hlock hop', hlock]
  refine ⟨(txOk_iff.mp h).1.set hk (by simp [holdsLock, hstage]) fun j hj => ?_, hregs⟩
  simp [hfree, Ne.symm hj]

/-- A caller without the lock goes to a point without the lock: it waits, or has returned. -/
theorem txOk_setCallerOp (h : txOk s) {op : Option CallerOp} (hbefore : (callerOp s k).any holdsLock = false)
    (hafter : op.any holdsLock = false) : txOk (setCallerOp k op s) := by
  have hne := h.lock_ne hbefore
  have hholder : lockHolder (setCallerOp k op s) = lockHolder s := by
    unfold lockHolder
    rw [setCallerOp_tx]
    split
    next => rfl
    next j hj =>
      rw [callerOp_setCallerOp_other]
      rintro rfl
      exact hne hj
  rw [txOk_iff, hholder]
  obtain ⟨hcallers, hregs⟩ := txOk_iff.mp h
  refine ⟨?_, hregs⟩
  by_cases hk : k < s.tasks.callers.length
  · exact hcallers.set hk (by simp [hafter, hne]) fun _ _ => Iff.rfl
  · simpa [List.set_eq_of_length_le (Nat.le_of_not_lt hk)] using hcallers

/-! ### The registers, by the holder's step -/

/-- With the lock free nothing is in flight and no intron is pending. -/
theorem regsOk_none {cfg : Config} {tx : Tx} :
    RegsOk cfg tx none ↔ tx.seq = none ∧ tx.pending = false ∧ tx.pendingIntron = none := by
  unfold RegsOk
  constructor
  · rintro ⟨hseq, hpending, -, -, hintron, -⟩
    simp_all
  · rintro ⟨hseq, hpending, hintron⟩
    simp [PendingOk, hseq, hpending, hintron]

/-- At a step outside the chunks nothing is in flight (R45). -/
theorem regsOk_outside {cfg : Config} {tx : Tx} (hstage : sendsChunks stage = false) :
    RegsOk cfg tx (some (job, stage)) ↔
      tx.seq = none ∧ tx.pending = false ∧ PendingOk cfg tx (some (job, stage)) := by
  have hne : stage ≠ .resume := by rintro rfl; cases hstage
  unfold RegsOk
  constructor
  · rintro ⟨hseq, hpending, -, -, hintron⟩
    exact ⟨by simpa [hstage] using hseq, by simpa [hne] using hpending, hintron⟩
  · rintro ⟨hseq, hpending, hintron⟩
    exact ⟨by simp [hseq, hstage], by simp [hpending], by simp [hseq], by simp [hseq], hintron⟩

/-- During the chunks TXSEQ stands at a chunk (R45); a completion is outstanding only at S3, exactly while that chunk is in
flight (R44). -/
theorem regsOk_sending {cfg : Config} {tx : Tx} (hstage : sendsChunks stage = true) :
    RegsOk cfg tx (some (job, stage)) ↔
      (∃ q, tx.seq = some q ∧ q.k < q.chunks.length ∧
        (stage = .resume → q.cur = q.chunks[q.k]? ∧ (tx.pending = true ↔ q.status = .running))) ∧
      (tx.pending = true → stage = .resume) ∧ PendingOk cfg tx (some (job, stage)) := by
  unfold RegsOk
  constructor
  · rintro ⟨hseq, hpending, hindex, hflight, hintron⟩
    obtain ⟨q, hq⟩ := Option.isSome_iff_exists.mp (hseq.mpr (by simpa using hstage))
    exact ⟨⟨q, hq, hindex q hq, fun hr => hflight q hq (by simp [hr])⟩, by simpa using hpending, hintron⟩
  · rintro ⟨⟨q, hq, hindex, hflight⟩, hpending, hintron⟩
    exact ⟨by simp [hq, hstage], by simpa using hpending, by simpa [hq] using hindex, by simpa [hq] using hflight, hintron⟩

/-- Behind J1 a JOIN_AP's holder holds its intron at every step alike, and a SEND's at none (R46). -/
theorem PendingOk.goOn {cfg : Config} {tx : Tx} {stage' : TxStage} (h : PendingOk cfg tx (some (job, stage)))
    (hs : stage ≠ .acquire ∧ stage ≠ .prepare) (hs' : stage' ≠ .acquire ∧ stage' ≠ .prepare) :
    PendingOk cfg tx (some (job, stage')) := by
  have hsame : holdsIntron (job, stage') = holdsIntron (job, stage) := by
    cases job with
    | send _ _ _ => rfl
    | join _ _ => cases stage <;> cases stage' <;> simp_all [holdsIntron]
  unfold PendingOk at h ⊢
  rwa [Option.any_some, hsame]

/-- What the registers hold while a caller stands behind S0. -/
theorem txOk.regs (h : txOk s) (hop : callerOp s k = some (.tx job stage)) (hstage : stage ≠ .acquire) :
    RegsOk s.cfg s.tx (some (job, stage)) := by
  have hregs := (txOk_iff.mp h).2
  rwa [lockHolder_held (h.lock_of_holder hop (holdsLock_tx.mpr hstage)) hop] at hregs

end

end Sys2Proof.Machine
end

section
/-! The steps of the transmit framer keep the transmit part of the invariant (41_transmit R130 to R136). -/

namespace Sys2Proof.Machine

open Sys2Proof

/-- A fresh intron is legal (10_state R24). -/
theorem intronOk_drawIntron {cfg : Config} (hc : configOk cfg) (d : Draws) : intronOk cfg (drawIntron cfg d).1 := by
  obtain ⟨hlen, -⟩ := hc
  exact ⟨drawIntron_length cfg d (by omega), drawIntron_fixed cfg d⟩

/-! ### The end of an operation -/

section

variable {s u : State} {k : Nat} {job : TxJob} {stage : TxStage}

/-- A holder that frees the lock with nothing in flight and no intron pending. -/
theorem txOk_releaseLock (h : txOk s) (hop : callerOp s k = some (.tx job stage)) (hstage : stage ≠ .acquire) (ok : Bool)
    (hcfg : u.cfg = s.cfg) (hcallers : u.tasks.callers = s.tasks.callers) (hseq : u.tx.seq = none)
    (hpending : u.tx.pending = false) (hintron : u.tx.pendingIntron = none) : txOk (releaseLock k ok u) :=
  txOk_return h hop (holdsLock_tx.mpr hstage) hcfg rfl (by simp [releaseLock, hcallers])
    (regsOk_none.mpr ⟨hseq, hpending, hintron⟩)

/-- A send that ends with nothing in flight: a SEND returns, a JOIN_AP goes to J3 with its intron (R130, R136). -/
theorem txOk_endSend (h : txOk s) (hop : callerOp s k = some (.tx job stage))
    (hstage : stage ≠ .acquire ∧ stage ≠ .prepare) (ok : Bool) (hcfg : u.cfg = s.cfg)
    (hcallers : u.tasks.callers = s.tasks.callers) (hlock : u.tx.lock = s.tx.lock) (hseq : u.tx.seq = none)
    (hpending : u.tx.pending = false) (hintron : u.tx.pendingIntron = s.tx.pendingIntron) :
    txOk (endSend k job ok u) := by
  obtain ⟨-, -, -, -, hheld⟩ := h.regs hop hstage.1
  cases job with
  | send t v frags =>
    refine txOk_releaseLock h hop hstage.1 ok hcfg hcallers hseq hpending ?_
    simpa [hintron, holdsIntron] using hheld.1
  | join ssid pass =>
    refine txOk_goOn (job := .join ssid pass) (stage := .finish ok) h hop (holdsLock_tx.mpr hstage.1) (by simp) hcfg hlock
      (by simp [endSend, hcallers]) ((regsOk_outside rfl).mpr ⟨hseq, hpending, ?_⟩)
    have hheld' := hheld.goOn (stage' := .finish ok) hstage (by simp)
    simpa only [PendingOk, endSend, setCallerOp_tx, hintron] using hheld'

/-! ### The steps -/

/-- S0 (R130, R136): the lock is taken, or waited for. -/
theorem txOk_stepAcquire (h : txOk s) (hk : k < s.tasks.callers.length) (hidle : (callerOp s k).any holdsLock = false)
    (job : TxJob) : txOk (stepAcquire k job s) := by
  unfold stepAcquire
  split
  next hfree =>
    obtain ⟨hseq, hpending, hintron⟩ := regsOk_none.mp (lockHolder_free hfree ▸ (txOk_iff.mp h).2)
    have hstage : stageAfterLock job ≠ .acquire ∧ sendsChunks (stageAfterLock job) = false ∧
        holdsIntron (job, stageAfterLock job) = false := by
      cases job <;> simp [stageAfterLock, sendsChunks, holdsIntron]
    obtain ⟨hne, houtside, hnone⟩ := hstage
    refine txOk_take h hk hfree hne rfl rfl rfl ((regsOk_outside houtside).mpr ⟨hseq, hpending, ?_⟩)
    simp [PendingOk, hintron, hnone]
  next => exact txOk_setCallerOp h hidle rfl

/-- J1 (R136): the fresh intron is pending, or the JOIN_AP returns. -/
theorem txOk_stepPrepare {ssid pass : List Byte} (hc : configOk s.cfg) (h : txOk s)
    (hop : callerOp s k = some (.tx (.join ssid pass) .prepare)) : txOk (stepPrepare k ssid pass s) := by
  obtain ⟨hseq, hpending, hheld⟩ := (regsOk_outside rfl).mp (h.regs hop (by simp))
  unfold stepPrepare
  split
  · refine txOk_goOn h hop rfl (by simp) rfl rfl rfl ((regsOk_outside rfl).mpr ⟨hseq, hpending, by simp [holdsIntron], ?_⟩)
    rintro i hi
    obtain rfl : (drawIntron s.cfg s.env.draws).1 = i := by simpa using hi
    exact intronOk_drawIntron hc _
  · exact txOk_releaseLock h hop (by simp) false rfl rfl hseq hpending (by simpa [holdsIntron] using hheld.1)

/-- S1 (R130): the sequence stands at its first chunk, the prelude, or the send ends. -/
theorem txOk_stepBuild (h : txOk s) (hop : callerOp s k = some (.tx job .build)) : txOk (stepBuild k job s) := by
  obtain ⟨hseq, hpending, hheld⟩ := (regsOk_outside rfl).mp (h.regs hop (by simp))
  unfold stepBuild
  split
  · rw [trackQuery_eq]
    refine txOk_goOn h hop rfl (by simp) rfl rfl rfl
      ((regsOk_sending rfl).mpr ⟨⟨_, rfl, Nat.zero_lt_succ _, by simp⟩, ?_, hheld.goOn (by simp) (by simp)⟩)
    intro hflight
    cases hpending.symm.trans hflight
  · exact txOk_endSend h hop (by simp) false rfl rfl rfl hseq hpending rfl

/-- S2 (R132): the chunk is in flight, or the send ends. -/
theorem txOk_stepStart (h : txOk s) (hop : callerOp s k = some (.tx job .start)) : txOk (stepStart k job s) := by
  obtain ⟨⟨q, hq, hindex, -⟩, -, hheld⟩ := (regsOk_sending rfl).mp (h.regs hop (by simp))
  unfold stepStart
  simp only [hq]
  split
  · exact h
  · unfold chunkAnswer
    split
    · refine txOk_goOn h hop rfl (by simp) rfl rfl rfl
        ((regsOk_sending rfl).mpr ⟨⟨_, rfl, hindex, fun _ => ⟨?_, by simp⟩⟩, fun _ => rfl, hheld.goOn (by simp) (by simp)⟩)
      simp [hindex]
    · exact txOk_endSend h hop (by simp) false rfl rfl rfl rfl rfl rfl

/-- S3 (R130, R135): suspended, or at the next chunk, or the send ends. -/
theorem txOk_stepResume (h : txOk s) (hop : callerOp s k = some (.tx job .resume)) : txOk (stepResume k job s) := by
  obtain ⟨⟨q, hq, hindex, -⟩, -, hheld⟩ := (regsOk_sending rfl).mp (h.regs hop (by simp))
  unfold stepResume
  simp only [hq]
  split
  · exact h
  next hpending =>
    have hpending : s.tx.pending = false := by simpa using hpending
    split
    · exact h
    · exact txOk_endSend h hop (by simp) false rfl rfl rfl rfl hpending rfl
    · split
      · exact txOk_endSend h hop (by simp) true rfl rfl rfl rfl hpending rfl
      next hmore =>
        have hnext : q.k + 1 < q.chunks.length := by omega
        have hstage : ∀ stage, (stage = .delay ∨ stage = .start) →
            txOk (setCallerOp k (some (.tx job stage)) { s with tx.seq := some { q with k := q.k + 1 } }) := by
          intro stage hs
          have hne : stage ≠ .acquire ∧ stage ≠ .prepare ∧ stage ≠ .resume ∧ sendsChunks stage = true := by
            obtain rfl | rfl := hs <;> simp [sendsChunks]
          obtain ⟨hacquire, hprepare, hresume, hsends⟩ := hne
          refine txOk_goOn h hop rfl hacquire rfl rfl rfl ((regsOk_sending hsends).mpr
            ⟨⟨_, rfl, hnext, fun hr => absurd hr hresume⟩, fun hflight => ?_, hheld.goOn (by simp) ⟨hacquire, hprepare⟩⟩)
          cases hpending.symm.trans hflight
        exact hstage _ (by split <;> simp)

/-- The delay before a chunk (R133). -/
theorem txOk_delay (h : txOk s) (hop : callerOp s k = some (.tx job .delay)) :
    txOk (setCallerOp k (some (.tx job .start)) s) := by
  obtain ⟨⟨q, hq, hindex, -⟩, hpending, hheld⟩ := (regsOk_sending rfl).mp (h.regs hop (by simp))
  exact txOk_goOn h hop rfl (by simp) rfl rfl rfl ((regsOk_sending rfl).mpr
    ⟨⟨q, hq, hindex, by simp⟩, fun hflight => absurd (hpending hflight) (by simp), hheld.goOn (by simp) (by simp)⟩)

/-- J3 (R136): the JOIN_AP returns, its intron no longer pending. -/
theorem txOk_stepFinish {ok : Bool} (h : txOk s) (hop : callerOp s k = some (.tx job (.finish ok))) :
    txOk (stepFinish k ok s) := by
  obtain ⟨hseq, hpending, -⟩ := (regsOk_outside rfl).mp (h.regs hop (by simp))
  unfold stepFinish commitIntron
  rw [casMode_eq]
  split <;> exact txOk_releaseLock h hop (by simp) ok rfl rfl hseq hpending rfl

/-- The next step of a SEND or JOIN_AP keeps the transmit part of the invariant, at every stage. -/
theorem txOk_stepTx (hc : configOk s.cfg) (h : txOk s) (hop : callerOp s k = some (.tx job stage)) :
    txOk (stepTx k job stage s) := by
  cases stage with
  | acquire => exact txOk_stepAcquire h (callerOp_lt hop) (by simp [hop, holdsLock]) job
  | prepare =>
    cases job with
    | send t v frags => exact h
    | join ssid pass => exact txOk_stepPrepare hc h hop
  | build => exact txOk_stepBuild h hop
  | start => exact txOk_stepStart h hop
  | resume => exact txOk_stepResume h hop
  | delay => exact txOk_delay h hop
  | finish ok => exact txOk_stepFinish h hop

/-- A completion taken leaves the holder at S3 with nothing in flight (R134). -/
theorem regsOk_chunkDone {cfg : Config} {tx : Tx} {holder : Option (TxJob × TxStage)} {st : TxStatus}
    (h : RegsOk cfg tx holder) (hst : st ≠ .running) :
    RegsOk cfg { tx with pending := false, seq := tx.seq.map fun q => { q with status := st } } holder := by
  obtain ⟨hseq, -, hindex, hflight, hintron⟩ := h
  refine ⟨by simpa using hseq, by simp, ?_, ?_, hintron⟩
  all_goals
    intro q' hq'
    obtain ⟨q, hq, rfl⟩ := Option.map_eq_some_iff.mp hq'
  · exact hindex q hq
  · intro hresume
    exact ⟨(hflight q hq hresume).1, by simp [hst]⟩

/-- TX_DONE, and the fatal stop of a spurious one (R134). -/
theorem txOk_txDone (h : txOk s) (st : DoneStatus) : txOk (txDone st s) := by
  have hdone : ∀ st' ≠ .running, txOk (chunkDone st' s) := fun st' hst =>
    txOk_iff.mpr ⟨(txOk_iff.mp h).1, regsOk_chunkDone (txOk_iff.mp h).2 hst⟩
  unfold txDone
  split
  · cases st with
    | ok => exact hdone .ok (by simp)
    | fail => exact hdone .fail (by simp)
  · exact h

end

end Sys2Proof.Machine
end

section
/-! What the transmit framer never changes: the parser, the ring, the session but for the last query and, at the end of a
JOIN_AP, the intron and the mode. One relation says it, as `RxKeeps` does for reception. -/

namespace Sys2Proof.Machine

open Sys2Proof

/-- What a step of the transmit framer never changes; the intron only for the one pending (41_transmit R136). -/
structure TxKeeps (s t : State) : Prop where
  cfg : t.cfg = s.cfg
  rx : t.rx = s.rx
  ring : t.ring = s.ring
  poll : t.poll = s.poll
  inited : t.inited = s.inited
  mac : t.sess.mac = s.sess.mac
  apSlot : t.sess.apSlot = s.sess.apSlot
  intron : t.sess.intron = s.sess.intron ∨ s.tx.pendingIntron = some t.sess.intron

section

variable (s : State) (k : Nat) (job : TxJob)

theorem TxKeeps.refl : TxKeeps s s := ⟨rfl, rfl, rfl, rfl, rfl, rfl, rfl, .inl rfl⟩

theorem TxKeeps.of_setCallerOp (op : Option CallerOp) : TxKeeps s (setCallerOp k op s) :=
  ⟨rfl, rfl, rfl, rfl, rfl, rfl, rfl, .inl rfl⟩

theorem TxKeeps.of_endSend (ok : Bool) {u : State} (h : TxKeeps s u) : TxKeeps s (endSend k job ok u) := by
  cases job <;> exact { h with }

theorem TxKeeps.of_stepAcquire : TxKeeps s (stepAcquire k job s) := by
  unfold stepAcquire
  split <;> exact { TxKeeps.refl s with }

theorem TxKeeps.of_stepPrepare (ssid pass : List Byte) : TxKeeps s (stepPrepare k ssid pass s) := by
  unfold stepPrepare
  split <;> exact { TxKeeps.refl s with }

theorem TxKeeps.of_stepBuild : TxKeeps s (stepBuild k job s) := by
  unfold stepBuild
  rw [trackQuery_eq]
  split
  · exact { TxKeeps.refl s with }
  · exact TxKeeps.of_endSend s k job false (TxKeeps.refl s)

theorem TxKeeps.of_chunkAnswer (started : Bool) (q : TxSeq) {u : State} (h : TxKeeps s u) :
    TxKeeps s (chunkAnswer started k job q u) := by
  unfold chunkAnswer
  split
  · exact { h with }
  · exact TxKeeps.of_endSend s k job false { h with }

theorem TxKeeps.of_stepStart : TxKeeps s (stepStart k job s) := by
  unfold stepStart
  split
  · exact TxKeeps.refl s
  · split
    · exact { TxKeeps.refl s with }
    · exact TxKeeps.of_chunkAnswer s k job _ _ { TxKeeps.refl s with }

theorem TxKeeps.of_stepResume : TxKeeps s (stepResume k job s) := by
  unfold stepResume
  split
  · exact TxKeeps.refl s
  · split
    · exact TxKeeps.refl s
    · split
      · exact TxKeeps.refl s
      · exact TxKeeps.of_endSend s k job false { TxKeeps.refl s with }
      · split
        · exact TxKeeps.of_endSend s k job true { TxKeeps.refl s with }
        · exact { TxKeeps.refl s with }

theorem TxKeeps.of_stepFinish (ok : Bool) : TxKeeps s (stepFinish k ok s) := by
  have hintron : s.tx.pendingIntron.getD s.sess.intron = s.sess.intron ∨
      s.tx.pendingIntron = some (s.tx.pendingIntron.getD s.sess.intron) := by
    cases s.tx.pendingIntron <;> simp
  unfold stepFinish commitIntron
  rw [casMode_eq]
  split
  · exact { TxKeeps.refl s with intron := hintron }
  · exact { TxKeeps.refl s with }

/-- The next step of a SEND or JOIN_AP keeps it, at every stage. -/
theorem TxKeeps.of_stepTx (stage : TxStage) : TxKeeps s (stepTx k job stage s) := by
  cases stage with
  | acquire => exact TxKeeps.of_stepAcquire s k job
  | prepare =>
    cases job with
    | send t v frags => exact TxKeeps.refl s
    | join ssid pass => exact TxKeeps.of_stepPrepare s k ssid pass
  | build => exact TxKeeps.of_stepBuild s k job
  | start => exact TxKeeps.of_stepStart s k job
  | resume => exact TxKeeps.of_stepResume s k job
  | delay => exact TxKeeps.of_setCallerOp s k _
  | finish ok => exact TxKeeps.of_stepFinish s k ok

theorem TxKeeps.of_txDone (st : DoneStatus) : TxKeeps s (txDone st s) := by
  unfold txDone
  split
  · cases st <;> exact { TxKeeps.refl s with }
  · exact { TxKeeps.refl s with }

end

end Sys2Proof.Machine
end

section
/-! The invariant `Inv` through every operation: its parts that an operation does not touch are carried over, the others are
the lemmas about the parser, the ring and the writer lock. -/

namespace Sys2Proof.Machine

open Sys2Proof

section

variable {s t : State}

/-! ### Carrying the invariant over -/

/-- The transmit part reads the configuration, the transmit registers and the callers alone. -/
theorem txOk_congr (h : txOk s) (hcfg : t.cfg = s.cfg) (htx : t.tx = s.tx) (hcallers : t.tasks.callers = s.tasks.callers) :
    txOk t := by
  have hholder : lockHolder t = lockHolder s := by simp only [lockHolder, callerOp, htx, hcallers]
  rw [txOk_iff] at h ⊢
  rwa [hholder, hcfg, htx, hcallers]

/-- The ring's part reads the configuration, the ring, the poll in progress and INITED alone. -/
theorem ringOk_congr (h : ringOk s) (hcfg : t.cfg = s.cfg) (hring : t.ring = s.ring) (hpoll : t.poll = s.poll)
    (hinited : t.inited = s.inited) : ringOk t := by
  unfold ringOk at h ⊢
  rwa [hcfg, hring, hpoll, hinited]

/-- What reception changes: the parser, and the session but for the intron. -/
theorem Inv.of_rxKeeps (h : Inv s) (hk : RxKeeps s t) (hparser : parserOk s.cfg t.rx) (hslots : SlotsOk s.cfg t.sess) :
    Inv t := by
  obtain ⟨hc, ⟨hlen, hintron, -⟩, -, hring, htx, hquiet⟩ := h
  refine ⟨hk.cfg ▸ hc, ⟨?_, ?_, ?_⟩, hk.cfg ▸ hparser, ringOk_congr hring hk.cfg hk.ring hk.poll hk.inited,
    txOk_congr htx hk.cfg hk.tx hk.callers, ?_⟩
  · rwa [hk.intron, hk.cfg]
  · rwa [hk.inited, hk.intron, hk.cfg]
  · rwa [hk.cfg]
  · rwa [quietBeforeInit, hk.inited, hk.tx, hk.poll]

/-- What the transmit framer changes: the lock and the transmit registers, and the intron for the one pending. -/
theorem Inv.of_txKeeps (h : Inv s) (hinited : s.inited = true) (hk : TxKeeps s t) (htx : txOk t) : Inv t := by
  obtain ⟨hc, ⟨-, hintron, hmac, hslot⟩, hparser, hring, ⟨-, -, -, -, -, -, -, -, hlegal⟩, -⟩ := h
  have hlegal' : intronOk t.cfg t.sess.intron := by
    rw [hk.cfg]
    obtain hsame | hpending := hk.intron
    · exact hsame ▸ hintron hinited
    · exact hlegal _ hpending
  refine ⟨hk.cfg ▸ hc, ⟨hlegal'.1, fun _ => hlegal', hk.mac ▸ hmac, ?_⟩, ?_, ringOk_congr hring hk.cfg hk.ring hk.poll hk.inited,
    htx, fun hnot => absurd (hk.inited.trans hinited) (by simp [hnot])⟩
  · rwa [hk.apSlot, hk.cfg]
  · rwa [hk.rx, hk.cfg]

/-- A caller without the lock goes to a point without the lock. -/
theorem Inv.after_setCallerOp (h : Inv s) {k : Nat} {op : Option CallerOp} (hbefore : (callerOp s k).any holdsLock = false)
    (hafter : op.any holdsLock = false) : Inv (setCallerOp k op s) := by
  obtain ⟨hc, hsess, hparser, hring, htx, hquiet⟩ := h
  exact ⟨hc, hsess, hparser, hring, txOk_setCallerOp htx hbefore hafter, hquiet⟩

/-- The rest of a step that a fatal stop may have ended keeps the invariant, if it would have. -/
theorem Inv.after_unlessHalted {rest : State → State} (h : Inv s) (hrest : Inv (rest s)) : Inv (unlessHalted rest s) := by
  unfold unlessHalted
  split
  · exact h
  · exact hrest

/-- A compare-and-swap of MODE: no part of the invariant reads MODE. -/
theorem Inv.after_casMode (h : Inv s) (old new : Mode) : Inv (casMode old new s) := by
  rw [casMode_eq]
  exact h

/-! ### INIT and RESET (45_control R240, R241) -/

/-- What the end of a session leaves for INIT's writes: the ring, the callers, the parser but for its chain. -/
theorem endSession_keeps (s : State) :
    (endSession s).ring = s.ring ∧ (endSession s).tasks.callers = s.tasks.callers ∧
      parserReset (endSession s).rx = parserReset s.rx := by
  unfold endSession
  split
  · rw [releaseChain_eq, noteLinkDown_eq]
    exact ⟨rfl, rfl, rfl⟩
  · exact ⟨rfl, rfl, rfl⟩

/-- INIT has its step only with the lock free. -/
theorem Inv.lock_free_of_initEnabled (h : Inv s) (he : initEnabled s = true) : s.tx.lock = none := by
  obtain ⟨-, -, -, -, -, hquiet⟩ := h
  cases hi : s.inited with
  | false => exact (hquiet hi).1
  | true =>
    have hfree : s.tx.lock = none ∧ s.poll = none := by simpa [initEnabled, hi] using he
    exact hfree.1

/-- INIT (R240). -/
theorem Inv.after_initNow (h : Inv s) (hfree : s.tx.lock = none) : Inv (initNow s) := by
  obtain ⟨hc, -, hparser, ⟨hwf, hbound, -⟩, htx, -⟩ := h
  obtain ⟨hring, hcallers, hrx⟩ := endSession_keeps s
  have hcfg := endSession_cfg s
  have hintron : intronOk (endSession s).cfg (drawIntron (endSession s).cfg (endSession s).env.draws).1 :=
    intronOk_drawIntron (hcfg ▸ hc) _
  have hsize : 0 < (endSession s).cfg.ringSize := by
    obtain ⟨-, -, -, -, -, -, hsize, -⟩ := hc
    rw [hcfg]
    omega
  unfold initNow freshSession
  rw [hrx]
  refine ⟨hcfg ▸ hc, ⟨hintron.1, fun _ => hintron, by simp, by simp⟩, hcfg ▸ parserOk_parserReset hparser.buffers,
    ⟨hring ▸ hwf, ?_, hsize, hsize, fun _ => rfl, by simp⟩, ?_, by simp⟩
  · rw [hring, hcfg]
    exact hbound
  · rw [txOk_iff, lockHolder_free rfl]
    refine ⟨?_, regsOk_none.mpr ⟨rfl, rfl, rfl⟩⟩
    have hold := (txOk_iff.mp htx).1
    rwa [hfree, ← hcallers, ← hcfg] at hold

/-- RESET (R241): the parser, the association, the intron. -/
theorem Inv.after_resetNow (h : Inv s) : Inv (resetNow s) := by
  obtain ⟨hc, ⟨hlen, hintron, hslots⟩, hparser, hring, htx, hquiet⟩ := h
  have hfresh := intronOk_drawIntron hc s.env.draws
  unfold resetNow resetIntron resetParser
  rw [dropAssociation_eq, releaseChain_eq]
  split
  · exact ⟨hc, ⟨hlen, hintron, hslots⟩, parserOk_parserReset hparser.buffers, hring, htx, hquiet⟩
  · exact ⟨hc, ⟨hfresh.1, fun _ => hfresh, hslots⟩, parserOk_parserReset hparser.buffers, hring, htx, hquiet⟩

/-! ### Reception and the ring -/

/-- A received byte (42_rx_parser R160 to R165). -/
theorem Inv.after_rxByte (h : Inv s) (b : Byte) : Inv (rxByte b s) := by
  have ⟨hc, ⟨_, _, hslots⟩, hparser, _⟩ := h
  obtain ⟨hparser', hslots'⟩ := rxByte_keeps_parser_and_slots b hc hparser hslots
  exact h.of_rxKeeps (RxKeeps.of_rxByte b s) hparser' hslots'

/-- The next byte of a feed (R170). -/
theorem Inv.after_feedStep (h : Inv s) : Inv (feedStep s) := by
  unfold feedStep
  split
  · exact h
  next b _ _ => exact (h.after_rxByte b).after_unlessHalted (h.after_rxByte b)

/-- DMA_WRITE with WPOS in the ring (44_dma_reader R220). -/
theorem Inv.after_dmaWrite (h : Inv s) (b : Byte) (hw : s.ring.wpos < s.cfg.ringSize) :
    Inv { s with ring.mem := s.ring.mem.write s.ring.wpos b, ring.wpos := (s.ring.wpos + 1) % s.cfg.ringSize } := by
  obtain ⟨hc, hsess, hparser, ⟨hwf, hbound, -, hrest⟩, htx, hquiet⟩ := h
  exact ⟨hc, hsess, hparser,
    ⟨Memory.write_wf _ b hwf, Memory.write_bound hw hbound, Nat.mod_lt _ (Nat.zero_lt_of_lt hw), hrest⟩, htx, hquiet⟩

/-- P0: the recovery, or the snapshot of WPOS (R222, R224). -/
theorem Inv.after_pollBegin (h : Inv s) (hinited : s.inited = true) (hidle : s.poll = none) : Inv (pollBegin s) := by
  obtain ⟨hc, hsess, hparser, ⟨hwf, hbound, hwpos, hrpos, hirq, -⟩, htx, hquiet⟩ := h
  have hzero := Nat.zero_lt_of_lt hwpos
  unfold pollBegin
  split
  · exact ⟨hc, hsess, hparser, ⟨hwf, hbound, hzero, hzero, fun _ => rfl, by simp [hidle]⟩, htx, hquiet⟩
  · exact ⟨hc, hsess, hparser, ⟨hwf, hbound, hwpos, hrpos, hirq, by simp [hwpos]⟩, htx,
      fun hnot => absurd hinited (by simp [show s.inited = false from hnot])⟩

/-- P1: a byte is fed and the index moves on (R222). -/
theorem Inv.after_pollFeed (h : Inv s) {c : PollCtx} (hpoll : s.poll = some c) (hlt : c.j < c.n) : Inv (pollFeed c s) := by
  have hbyte := h.after_rxByte (pollByteAt s c.j)
  have hpoll' : (rxByte (pollByteAt s c.j) s).poll = some c := (RxKeeps.of_rxByte _ s).poll.trans hpoll
  refine hbyte.after_unlessHalted ?_
  obtain ⟨hc, hsess, hparser, ⟨hwf, hbound, hwpos, hrpos, hirq, hctx⟩, htx, hquiet⟩ := hbyte
  obtain ⟨-, hw, hn⟩ := hctx c hpoll'
  refine ⟨hc, hsess, hparser, ⟨hwf, hbound, hwpos, hrpos, hirq, ?_⟩, htx, fun hnot => ?_⟩
  · rintro _ ⟨⟩
    exact ⟨hlt, hw, hn⟩
  · cases hpoll'.symm.trans (hquiet hnot).2

/-- P2: the read offset moves to the snapshot (R222). -/
theorem Inv.after_pollEnd (h : Inv s) {c : PollCtx} (hpoll : s.poll = some c) : Inv (pollEnd c s) := by
  obtain ⟨hc, hsess, hparser, ⟨hwf, hbound, hwpos, hrpos, hirq, hctx⟩, htx, hquiet⟩ := h
  obtain ⟨-, hw, -⟩ := hctx c hpoll
  exact ⟨hc, hsess, hparser, ⟨hwf, hbound, hwpos, hw, hirq, by simp [pollEnd]⟩, htx,
    fun hnot => ⟨(hquiet hnot).1, rfl⟩⟩

/-- The next step of the poller. -/
theorem Inv.after_pollerStep (h : Inv s) : Inv (pollerStep s) := by
  unfold pollerStep
  split
  next c hpoll =>
    split
    next hlt => exact h.after_pollFeed hpoll hlt
    next => exact h.after_pollEnd hpoll
  next => exact h.after_feedStep

/-! ### The callers and the transmit hardware -/

/-- The next step of a SEND or JOIN_AP in progress (41_transmit). -/
theorem Inv.after_stepTx (h : Inv s) (hinited : s.inited = true) {k : Nat} {job : TxJob} {stage : TxStage}
    (hop : callerOp s k = some (.tx job stage)) : Inv (stepTx k job stage s) := by
  have ⟨hc, _, _, _, htx, _⟩ := h
  exact h.of_txKeeps hinited (TxKeeps.of_stepTx s k job stage) (txOk_stepTx hc htx hop)

/-- The next step of what a caller has in progress. -/
theorem Inv.after_callerStep (h : Inv s) {k : Nat} {op : CallerOp} (hop : callerOp s k = some op)
    (hmay : mayContinue s op = true) : Inv (callerStep k op s) := by
  cases op with
  | initWait =>
    simp only [callerStep]
    split
    next he => exact (h.after_setCallerOp (by simp [hop, holdsLock]) rfl).after_initNow (h.lock_free_of_initEnabled he)
    next => exact h
  | resetWait =>
    simp only [callerStep]
    split
    next => exact (h.after_setCallerOp (by simp [hop, holdsLock]) rfl).after_resetNow
    next => exact h
  | tx job stage =>
    refine h.after_stepTx ?_ hop
    simpa [mayContinue] using hmay

/-- S0 of an idle caller's SEND or JOIN_AP. -/
theorem Inv.after_stepAcquire (h : Inv s) (hinited : s.inited = true) {k : Nat} (hk : k < s.cfg.nCallers)
    (hidle : callerOp s k = none) (job : TxJob) : Inv (stepAcquire k job s) := by
  have ⟨_, _, _, _, htx, _⟩ := h
  have ⟨hlen, _⟩ := htx
  exact h.of_txKeeps hinited (TxKeeps.of_stepAcquire s k job)
    (txOk_stepAcquire htx (hlen ▸ hk) (by simp [hidle]) job)

/-- TX_DONE (41_transmit R134). -/
theorem Inv.after_txDone (h : Inv s) (hinited : s.inited = true) (st : DoneStatus) : Inv (txDone st s) := by
  have ⟨_, _, _, _, htx, _⟩ := h
  exact h.of_txKeeps hinited (TxKeeps.of_txDone s st) (txOk_txDone htx st)

/-- MODE_CAS (45_control R242). -/
theorem Inv.after_modeCas (h : Inv s) (old new : Byte) : Inv (modeCas old new s) := by
  unfold modeCas
  split
  · exact h.after_casMode _ _
  · exact h

/-! ### The steps -/

/-- The caller that begins an operation: of the configuration, and idle (30_encoding R90, 00_scope R14). -/
theorem caller_of_allowed (ha : agentAllowed s.cfg .caller s.env.agent = true) (hb : agentBusy s = false) :
    callerIndex s < s.cfg.nCallers ∧ callerOp s (callerIndex s) = none := by
  obtain ⟨k, hk, hlt⟩ := agentAllowed_caller ha
  have hindex : callerIndex s = k := by simp only [callerIndex, hk]
  rw [hindex]
  exact ⟨hlt, by simpa [agentBusy, hk] using hb⟩

/-- The poller that begins an operation has no POLL in progress. -/
theorem poll_none_of_allowed (ha : agentAllowed s.cfg .poller s.env.agent = true) (hb : agentBusy s = false) :
    s.poll = none := by
  cases hagent : s.env.agent <;> simp_all [agentAllowed, agentBusy]

/-- An instruction's first step. -/
theorem Inv.after_exec {i : Instr} (h : Inv s) (hexec : exec i s = .next t) : Inv t := by
  obtain ⟨-, hinited, ha, hb, hw, rfl⟩ := exec_next hexec
  cases i with
  | deviceInfo | clientConfig | packet | scanStart | scanStop | scanApGet | scanApCount | scanApInfo | invalid | rxFeed =>
    exact Inv.after_feedStep (s := { s with tasks.feed := _ }) h
  | init =>
    obtain ⟨-, hidle⟩ := caller_of_allowed ha hb
    simp only [firstStep]
    split
    next he => exact h.after_initNow (h.lock_free_of_initEnabled he)
    next => exact h.after_setCallerOp (by simp [hidle]) rfl
  | reset =>
    obtain ⟨-, hidle⟩ := caller_of_allowed ha hb
    simp only [firstStep]
    split
    next => exact h.after_resetNow
    next => exact h.after_setCallerOp (by simp [hidle]) rfl
  | poll => exact h.after_pollBegin (hinited (by simp)) (poll_none_of_allowed ha hb)
  | rxByte b => exact h.after_rxByte b
  | send | joinAp =>
    obtain ⟨hlt, hidle⟩ := caller_of_allowed ha hb
    exact h.after_stepAcquire (hinited (by simp)) hlt hidle _
  | modeCas old new => exact h.after_modeCas old new
  | modeRead | linkUpRead | tickRead | macRead | apCountRead => exact h
  | apInfoTake =>
    obtain ⟨hc, ⟨hlen, hintron, hmac, -⟩, hrest⟩ := h
    exact ⟨hc, ⟨hlen, hintron, hmac, by simp [firstStep]⟩, hrest⟩
  | dmaWrite b => exact h.after_dmaWrite b (hw b rfl)
  | uartError =>
    simp only [firstStep]
    split <;> exact h
  | txDone st => exact h.after_txDone (hinited (by simp)) st

/-- A continuation step. -/
theorem Inv.after_resumeAgent (h : Inv s) (hresume : resumeAgent s = .next t) : Inv t := by
  obtain ⟨-, rfl | ⟨k, op, -, hop, hmay, rfl⟩ | ⟨-, -, -, rfl⟩⟩ := resumeAgent_next hresume
  · exact h
  · exact h.after_callerStep hop hmay
  · exact h.after_pollerStep

end

/-- Settles O3, by the three things a step can be: nothing, a continuation, an instruction's first step. The schedule is no
part of the invariant. -/
theorem stepKeepsInvariant : Obligations.StepKeepsInvariant := by
  intro s t h hstep
  obtain ⟨-, ⟨-, rfl⟩ | ⟨a, rest, -, hresume⟩ | ⟨a, fmt, bytes, rest, i, -, -, hexec⟩⟩ := step_next hstep
  · exact h
  · exact Inv.after_resumeAgent (s := takeInput _ rest s) h hresume
  · exact Inv.after_exec (s := takeInput _ rest s) h hexec

end Sys2Proof.Machine
end

section
/-! Power-on (10_state R21, 70 R290): the registers with a value in the spec, and the base case of the invariant. -/

namespace Sys2Proof.Machine

open Sys2Proof

/-- Settles O1: the three registers to which 10_state gives a power-on value, under any record. -/
theorem powerOnValues : Obligations.PowerOnValues := by
  rintro s (rfl | ⟨cfg, rfl⟩) <;> exact ⟨rfl, rfl, rfl⟩

/-- The parser at power-on (10_state R30 to R36; log entry 5). -/
theorem parserOk_powerOn {cfg : Config} (hc : configOk cfg) : parserOk cfg (State.powerOn cfg).rx := by
  obtain ⟨hlen, -⟩ := hc
  exact parserOk_iff.mpr ⟨{
    ibuf := List.length_replicate
    hbuf := List.length_replicate
    fbuf := List.length_replicate
    ipos := show 0 < cfg.intronLen by omega
    hpos := Nat.zero_lt_succ 7
    fpos := Nat.zero_le _ }, rfl⟩

/-- At power-on every caller is idle and the lock is free (R43 to R46; log entry 5). -/
theorem txOk_powerOn (cfg : Config) : txOk (State.powerOn cfg) := by
  refine txOk_iff.mpr ⟨⟨List.length_replicate, by simp [State.powerOn], ?_⟩, regsOk_none.mpr ⟨rfl, rfl, rfl⟩⟩
  intro k hk
  have hk' : k < cfg.nCallers := by simpa [State.powerOn] using hk
  simp [State.powerOn, hk']

/-- The machine at power-on meets the invariant, under every record that R7 admits. -/
theorem inv_powerOn {cfg : Config} (hc : configOk cfg) : Inv (State.powerOn cfg) := by
  have hsize : 0 < cfg.ringSize := by
    obtain ⟨-, -, -, -, -, -, hsize, -⟩ := hc
    omega
  refine ⟨hc, ⟨List.length_replicate, ?_, ?_, ?_⟩, parserOk_powerOn hc, ⟨List.Pairwise.nil, ?_, hsize, hsize, ?_, ?_⟩,
    txOk_powerOn cfg, fun _ => ⟨rfl, rfl⟩⟩
  all_goals simp [State.powerOn]

/-- Settles O2: `State.reset` is power-on under the record of log entry 3, which R7 admits. -/
theorem invariantAtPowerOn : Obligations.InvariantAtPowerOn :=
  ⟨inv_powerOn (by decide), rfl, fun _ hc => ⟨inv_powerOn hc, rfl⟩⟩

end Sys2Proof.Machine
end

section
/-! The ring between two snapshots (44_dma_reader R220, R222): what a run of DMA writes leaves, and the count the next
snapshot takes of it (20_memory R79). -/

namespace Sys2Proof.Machine

open Sys2Proof

section

variable {s : State} {bs : List Byte} {rest : List Input}

/-! ### The ring after DMA writes -/

/-- What the DMA writes of bytes, in order, make of the ring (R220): a name for the registers of `ringAfter` and WPOS. -/
def ringWritten (size : Nat) (bs : List Byte) (r : Ring) : Ring :=
  { r with mem := ringAfter size r.wpos bs r.mem, wpos := (r.wpos + bs.length) % size }

@[simp] theorem ringWritten_wpos (size : Nat) (bs : List Byte) (r : Ring) :
    (ringWritten size bs r).wpos = (r.wpos + bs.length) % size := rfl

@[simp] theorem ringWritten_rpos (size : Nat) (bs : List Byte) (r : Ring) : (ringWritten size bs r).rpos = r.rpos := rfl

@[simp] theorem ringWritten_errPending (size : Nat) (bs : List Byte) (r : Ring) :
    (ringWritten size bs r).errPending = r.errPending := rfl

theorem ringWritten_nil {size : Nat} {r : Ring} (h : r.wpos < size) : ringWritten size [] r = r := by
  simp [ringWritten, ringAfter, Nat.mod_eq_of_lt h]

/-- The first byte, then the others. -/
theorem ringWritten_cons (size : Nat) (b : Byte) (bs : List Byte) (r : Ring) :
    ringWritten size (b :: bs) r = ringWritten size bs (ringWritten size [b] r) := by
  simp [ringWritten, ringAfter, Nat.add_assoc, Nat.add_comm 1]

/-! ### The first steps of DMA_WRITE and POLL -/

/-- DMA_WRITE with WPOS in the ring (R220). -/
theorem exec_dmaWrite (b : Byte) (hready : Ready .rxhw s) (hw : s.ring.wpos < s.cfg.ringSize) :
    exec (.dmaWrite b) s = .next { s with ring := ringWritten s.cfg.ringSize [b] s.ring } :=
  (enter_of_ready hready _).trans (if_pos hw)

/-- POLL begins with P0 (R222). -/
theorem exec_poll (hready : Ready .poller s) : exec .poll s = .next (pollBegin s) := enter_of_ready hready _

/-- P0 with no error pending is the snapshot of WPOS (R222). -/
theorem pollBegin_of_no_error (he : s.ring.errPending = false) :
    pollBegin s =
      { s with poll := some { w := s.ring.wpos, j := 0, n := ringCount s.cfg.ringSize s.ring.rpos s.ring.wpos } } :=
  if_neg (by simp [he])

/-- RXHW is never in the middle of an operation: it may begin one at every step (00_scope R14). -/
theorem ready_rxhw_takeInput (act : Action) (hh : s.halted = none) (hi : s.inited = true) :
    Ready .rxhw (takeInput { agent := .rxhw, act := act } rest s) := ⟨hh, hi, rfl, rfl⟩

/-- A poller with neither a POLL nor a feed in progress may begin an operation. -/
theorem ready_poller_takeInput (act : Action) (hh : s.halted = none) (hi : s.inited = true) (hpoll : s.poll = none)
    (hfeed : s.tasks.feed = []) : Ready .poller (takeInput { agent := .poller, act := act } rest s) :=
  ⟨hh, hi, rfl, by simp [agentBusy, hpoll, hfeed]⟩

/-- The step of a scheduled DMA_WRITE. -/
theorem step_dmaWrite (b : Byte) (hh : s.halted = none) (hi : s.inited = true) (hw : s.ring.wpos < s.cfg.ringSize)
    (hin : s.env.inputs = issue s.cfg .rxhw (.dmaWrite b) :: rest) :
    step s =
      .next { s with ring := ringWritten s.cfg.ringSize [b] s.ring, env.inputs := rest, env.agent := .rxhw } :=
  (step_of_decode_ok hh hin rfl).trans (exec_dmaWrite b (ready_rxhw_takeInput _ hh hi) hw)

/-- The step of a scheduled POLL. -/
theorem step_poll (hh : s.halted = none) (hi : s.inited = true) (hpoll : s.poll = none) (hfeed : s.tasks.feed = [])
    (hin : s.env.inputs = issue s.cfg .poller .poll :: rest) :
    step s = .next (pollBegin (takeInput (issue s.cfg .poller .poll) rest s)) :=
  (step_of_decode_ok hh hin rfl).trans (exec_poll (ready_poller_takeInput _ hh hi hpoll hfeed))

/-! ### The DMA writes of a sequence -/

/-- The DMA writes of a sequence of any length, longer than the ring too, change the ring and nothing else but the schedule:
the writer never looks at RPOS (R220). -/
theorem run_dmaScript (hh : s.halted = none) (hi : s.inited = true) (hw : s.ring.wpos < s.cfg.ringSize)
    (hin : s.env.inputs = dmaScript s.cfg bs ++ rest) :
    ∃ a, Host.Core.run Sys2Proof.core bs.length s =
      .next { s with ring := ringWritten s.cfg.ringSize bs s.ring, env.inputs := rest, env.agent := a } := by
  induction bs generalizing s with
  | nil =>
    have hrest : s.env.inputs = rest := hin
    exact ⟨s.env.agent, by rw [ringWritten_nil hw, ← hrest]; rfl⟩
  | cons b bs ih =>
    have hw' : (ringWritten s.cfg.ringSize [b] s.ring).wpos < s.cfg.ringSize := Nat.mod_lt _ (Nat.zero_lt_of_lt hw)
    obtain ⟨a, hrun⟩ := ih (s := { s with
      ring := ringWritten s.cfg.ringSize [b] s.ring
      env.inputs := dmaScript s.cfg bs ++ rest, env.agent := .rxhw }) hh hi hw' rfl
    rw [ringWritten_cons]
    exact ⟨a, (run_succ (step_dmaWrite b hh hi hw hin)).trans hrun⟩

/-! ### The count -/

/-- The count of k bytes written from the read offset on is k modulo RING_SIZE: it cannot tell a lap from none (R79). -/
theorem ringCount_advance {size rpos : Nat} (k : Nat) (h : rpos < size) :
    ringCount size rpos ((rpos + k) % size) = k % size := by
  unfold ringCount
  rw [Nat.mod_eq_of_lt h]
  have hmod : (rpos + k) % size + size - rpos + rpos ≡ k + rpos [MOD size] := by
    rw [Nat.sub_add_cancel (by omega), Nat.add_comm k]
    simp [Nat.ModEq]
  exact Nat.ModEq.add_right_cancel' rpos hmod

end

/-- Settles O53: the writes move WPOS by the sequence's length around the ring and leave RPOS where it was, and the snapshot
counts the distance between the two. -/
theorem ringOverrunIsUndetected : Obligations.RingOverrunIsUndetected := by
  intro s bs rest hh hi hpoll hfeed he _ hw hr hin
  obtain ⟨a, hwrites⟩ := run_dmaScript hh hi hw hin
  refine ⟨_, (run_add hwrites).trans (run_one (step_poll hh hi hpoll hfeed rfl)), ?_⟩
  rw [pollBegin_of_no_error (by simpa using he)]
  simp [hr, ringCount_advance bs.length hw]

end Sys2Proof.Machine
end

section
/-! The encodings (30_encoding R80 to R84, R90) read back: what the encoder writes the decoder reads, for a frame of each type,
for an operation, and for the table word of an operation (log entry 9). -/

namespace Sys2Proof

open Sys2Proof.Machine

/-! ### The frame rows as one family -/

/-- The instructions of the wire format are the frames of the nine types (30_encoding R84). -/
theorem exists_frameInstr {i : Instr} (h : i.format = .frame) : ∃ t f, i = frameInstr t f := by
  cases i
  case deviceInfo f => exact ⟨.deviceInfo, f, rfl⟩
  case clientConfig f => exact ⟨.clientConfig, f, rfl⟩
  case packet f => exact ⟨.packet, f, rfl⟩
  case scanStart f => exact ⟨.scanStart, f, rfl⟩
  case scanStop f => exact ⟨.scanStop, f, rfl⟩
  case scanApGet f => exact ⟨.scanApGet, f, rfl⟩
  case scanApCount f => exact ⟨.scanApCount, f, rfl⟩
  case scanApInfo f => exact ⟨.scanApInfo, f, rfl⟩
  case invalid f => exact ⟨.invalid, f, rfl⟩
  all_goals cases h

@[simp] theorem encode_frameInstr (cfg : Config) (t : MsgType) (f : Frame) :
    encode cfg (frameInstr t f) = encodeFrame cfg t f := by
  cases t <;> rfl

@[simp] theorem wf_frameInstr (cfg : Config) (t : MsgType) (f : Frame) : (frameInstr t f).wf cfg = f.wf cfg := by
  cases t <;> rfl

theorem Frame.wf_iff {cfg : Config} {f : Frame} :
    f.wf cfg = true ↔ f.intron.length = cfg.intronLen ∧ f.payload.length ≤ 65535 := by
  simp [Frame.wf]

/-! ### Frames -/

/-- The size field carries every length that fits 16 bits (30_encoding R82, 00_scope R8). -/
theorem unbe16_size {n : Nat} (h : n ≤ 65535) :
    (unbe16 ((be16 (BitVec.ofNat 16 n)).getD 0 0) ((be16 (BitVec.ofNat 16 n)).getD 1 0)).toNat = n := by
  rw [unbe16_be16, BitVec.toNat_ofNat]
  omega

/-- The fields behind an intron, where the type is listed and the size field says how long the payload is (30_encoding R82). -/
theorem decodeFields_eq {cfg : Config} {t v s1 s0 c3 c2 c1 c0 : Byte} {ty : MsgType} {payload : List Byte}
    (intron tail : List Byte) (htype : typeOf cfg.typeCode t = some ty) (hsize : (unbe16 s1 s0).toNat = payload.length) :
    decodeFields cfg intron (t :: v :: s1 :: s0 :: c3 :: c2 :: c1 :: c0 :: (payload ++ tail)) =
      .ok (frameInstr ty { intron := intron, var := v, checksum := unbe32 c3 c2 c1 c0, payload := payload }, tail) := by
  simp [decodeFields, htype, hsize]

/-- The fields that the encoder puts behind a frame's intron are read back. -/
theorem decodeFields_encoded {cfg : Config} {f : Frame} (t : MsgType) (tail : List Byte) (hc : configOk cfg)
    (hsize : f.payload.length ≤ 65535) :
    decodeFields cfg f.intron
        (headerBytes (typeCodeOf cfg.typeCode t) f.var f.payload.length ++ be32 f.checksum ++ (f.payload ++ tail)) =
      .ok (frameInstr t f, tail) := by
  have ⟨_, hcodes, _⟩ := hc
  have hread := decodeFields_eq (v := f.var) (c3 := (be32 f.checksum).getD 0 0) (c2 := (be32 f.checksum).getD 1 0)
    (c1 := (be32 f.checksum).getD 2 0) (c0 := (be32 f.checksum).getD 3 0) f.intron tail (typeOf_typeCodeOf hcodes t)
    (unbe16_size hsize)
  rw [unbe32_be32] at hread
  exact hread

/-- A frame is read back, with the bytes behind it left over (30_encoding R80, R83). -/
theorem decodeFrame_encodeFrame {cfg : Config} {f : Frame} (t : MsgType) (tail : List Byte) (hc : configOk cfg)
    (hwf : f.wf cfg = true) : decodeFrame cfg (encodeFrame cfg t f ++ tail) = .ok (frameInstr t f, tail) := by
  obtain ⟨hintron, hsize⟩ := Frame.wf_iff.mp hwf
  have hbytes : encodeFrame cfg t f ++ tail =
      f.intron ++
        (headerBytes (typeCodeOf cfg.typeCode t) f.var f.payload.length ++ be32 f.checksum ++ (f.payload ++ tail)) := by
    simp [encodeFrame, frameBytes, framePrelude]
  have hlong : ¬ (encodeFrame cfg t f ++ tail).length < cfg.intronLen := by
    rw [hbytes, List.length_append]
    omega
  rw [decodeFrame, if_neg hlong, hbytes, ← hintron, List.take_left, List.drop_left]
  exact decodeFields_encoded t tail hc hsize

/-! ### Operations -/

/-- Operand decoders run in order: one that succeeds hands on what it read and the bytes after it. -/
theorem ok_bind {α β : Type} (a : α) (next : α → Except DecodeError β) : (Except.ok a >>= next) = next a := rfl

/-- An operation is read back from its identifier and operands, with the bytes behind it left over (30_encoding R90). -/
theorem decodeOp_encode {i : Instr} (cfg : Config) (tail : List Byte) (h : i.format = .op) :
    decodeOp (encode cfg i ++ tail) = .ok (i, tail) := by
  cases i
  case rxFeed q => simp [encode, decodeOp, takeSeq_putSeq, ok_bind]
  case send t v fs => simp [encode, decodeOp, takeByte, takeFrags_putFrags, ok_bind]
  case joinAp ssid pass => simp [encode, decodeOp, takeSeq_putSeq, ok_bind]
  case txDone st => simp [encode, decodeOp, takeStatus_putStatus, ok_bind]
  case init | reset | poll | rxByte | modeCas | modeRead | linkUpRead | tickRead | macRead | apCountRead | apInfoTake |
      dmaWrite | uartError => rfl
  all_goals cases h

/-- Settles O9: a frame of any type by its fields, an operation by its identifier and operands. -/
theorem decodeInvertsEncode : Obligations.DecodeInvertsEncode := by
  intro cfg i tail hc hwf
  cases hfmt : i.format with
  | frame =>
    obtain ⟨t, f, rfl⟩ := exists_frameInstr hfmt
    rw [encode_frameInstr]
    exact decodeFrame_encodeFrame t tail hc (wf_frameInstr cfg t f ▸ hwf)
  | op => exact decodeOp_encode cfg tail hfmt

/-! ### Fixed words -/

/-- Bytes that begin with the encoding of an instruction, read in its format, are that instruction. -/
theorem decode_of_encode {cfg : Config} {fmt : Format} {bytes tail : List Byte} {i : Instr} (hc : configOk cfg)
    (hwf : i.wf cfg = true) (hfmt : i.format = fmt) (hbytes : bytes = encode cfg i ++ tail) :
    decode cfg fmt bytes = .ok (i, tail) := by
  rw [← hfmt, hbytes]
  exact decodeInvertsEncode cfg i tail hc hwf

/-- A table word whose bytes begin with the encoding of an operation is read as that operation (log entry 9). -/
theorem decodeTableWord_of_encode {nbits w : Nat} {i : Instr} (tail : List Byte) (hwf : i.wf vectorConfig = true)
    (hop : i.format = .op) (hbytes : tableBytes vectorConfig nbits w .op = encode vectorConfig i ++ tail) :
    decodeTableWord nbits w = some i := by
  have hdecode := decode_of_encode (by decide) hwf hop hbytes
  simp [decodeTableWord, tableFormat, hdecode]

/-- Settles O10: each word's bytes are the encoding of its operation and zeros, and F_PACKET's are the encoding of its frame. -/
theorem wordsDecodeToTheirInstructions : Obligations.WordsDecodeToTheirInstructions :=
  ⟨decodeTableWord_of_encode zeroOperands rfl rfl rfl, decodeTableWord_of_encode zeroOperands rfl rfl rfl,
   decodeTableWord_of_encode zeroOperands rfl rfl rfl, decodeTableWord_of_encode zeroOperands rfl rfl rfl,
   decode_of_encode (by decide) (by decide) rfl rfl⟩

end Sys2Proof
end

section
/-! A frame as an instruction is the feed of its bytes (30_encoding R93, R94; log entry 8): the first byte in its own step,
the others left to feed (42_rx_parser R170). -/

namespace Sys2Proof.Machine

open Sys2Proof

section

variable {s : State} {f : Frame} {b : Byte} {bs : List Byte}

/-! ### The first step of a feed -/

/-- A received byte does not read the bytes still to feed: replacing them before it or after it comes to the same. -/
theorem rxByte_setFeed (b : Byte) (bs : List Byte) (s : State) :
    rxByte b { s with tasks.feed := bs } = { rxByte b s with tasks.feed := bs } :=
  calc rxByte b { s with tasks.feed := bs }
      = withOuter { outerOf s with feed := bs } (rxByte b s) := rxByte_outer { outerOf s with feed := bs } s b
    _ = { rxByte b s with tasks.feed := bs } := by rw [← outerOf_rxByte s b]; rfl

/-- The next byte of a feed: it is received, and the others are left, unless it halted the block (42_rx_parser R170). -/
theorem feedStep_cons (b : Byte) (bs : List Byte) (s : State) :
    feedStep { s with tasks.feed := b :: bs } = fed b bs s := by
  show unlessHalted (fun t => { t with tasks.feed := bs }) (rxByte b { s with tasks.feed := b :: bs }) = _
  rw [rxByte_setFeed, unlessHalted, fed]
  by_cases h : (rxByte b s).halted = none
  · rw [if_pos h, if_neg (by simp [h])]
  · rw [if_neg h, if_pos (Option.isSome_iff_ne_none.mpr h)]

/-- A feed of at least one byte begins with the first (42_rx_parser R170). -/
theorem beginFeed_cons (b : Byte) (bs : List Byte) (hready : Ready .poller s) :
    beginFeed (b :: bs) s = .next (fed b bs s) :=
  (enter_of_ready hready _).trans (congrArg _ (feedStep_cons b bs s))

/-! ### Frames -/

/-- A frame has a first byte, whatever its fields (30_encoding R83). -/
theorem frameBytes_eq_cons (intron : List Byte) (t v : Byte) (c : U32) (payload : List Byte) :
    ∃ b bs, frameBytes intron t v c payload = b :: bs :=
  List.exists_cons_of_length_pos (by rw [frameBytes_length]; omega)

/-- Each frame row is the receipt of a frame of its type. -/
theorem exec_frameInstr (t : MsgType) (f : Frame) (s : State) : exec (frameInstr t f) s = receiveFrame t f s := by
  cases t <;> rfl

/-- A frame instruction's step feeds the frame's first byte. -/
theorem exec_frameInstr_of_bytes (t : MsgType) (hready : Ready .poller s) {code : Byte}
    (hcode : code = typeCodeOf s.cfg.typeCode t) (hbytes : b :: bs = frameBytes f.intron code f.var f.checksum f.payload) :
    exec (frameInstr t f) s = .next (fed b bs s) := by
  rw [exec_frameInstr, receiveFrame, ← hcode, ← hbytes]
  exact beginFeed_cons b bs hready

end

/-- Settles O35: one fact for all nine types, taken at each row's. -/
theorem framesAreFedToTheParser : Obligations.FramesAreFedToTheParser := by
  intro s f hready
  refine ⟨fun code => frameBytes_eq_cons f.intron code f.var f.checksum f.payload, fun b bs => ?_⟩
  have hfed (t : MsgType) (code : Byte) := exec_frameInstr_of_bytes (f := f) (b := b) (bs := bs) (code := code) t hready
  exact ⟨hfed .deviceInfo, hfed .clientConfig, hfed .packet, hfed .scanStart, hfed .scanStop, hfed .scanApGet,
    hfed .scanApCount, hfed .scanApInfo, hfed .invalid⟩

end Sys2Proof.Machine
end

section
/-! The codec (40_codec): the check values, the checksum and the chunks of a payload in fragments, and why a CRC whose
polynomial has a constant term tells two values of one byte apart: every round of its register can be undone. -/

namespace Sys2Proof.Machine

open Sys2Proof

/-! ### Fragments -/

/-- Settles O11, by computing the three values. -/
theorem checksumCheckValues : Obligations.ChecksumCheckValues := by
  unfold Obligations.ChecksumCheckValues
  decide +kernel

/-- Settles O12: the walk over the fragments is one walk over their concatenation, and that over the intron and header goes
before it. -/
theorem fragmentWalkIsTheFrameChecksum : Obligations.FragmentWalkIsTheFrameChecksum := by
  intro p intron header frags
  rw [frameCrcWalk, foldl_frags, ← List.foldl_append]
  rfl

/-- Settles O13: an empty fragment adds nothing to the concatenation, and the prelude's checksum and size are those of the
joined fragments. -/
theorem chunksJoinToTheBuiltFrame : Obligations.ChunksJoinToTheBuiltFrame := by
  intro cfg intron t v frags
  rw [sendChunks, List.flatten_cons, List.flatten_filter_not_isEmpty, fragsTotal_eq, fragmentWalkIsTheFrameChecksum]
  rfl

section

variable {p : CrcParams} {c c' : U32}

/-! ### One round of the checksum register (R110) -/

/-- The bit a round shifts out of the register. -/
def crcOutBit (p : CrcParams) (c : U32) : Bool :=
  match p.order with
  | .reflected => c.getLsbD 0
  | .unreflected => c.getLsbD 31

/-- The bit at the other end, where a round shifts a 0 in. -/
def crcInBit (p : CrcParams) (c : U32) : Bool :=
  match p.order with
  | .reflected => c.getLsbD 31
  | .unreflected => c.getLsbD 0

/-- The register shifted by one bit. -/
def crcShift (p : CrcParams) (c : U32) : U32 :=
  match p.order with
  | .reflected => c >>> 1
  | .unreflected => c <<< 1

/-- A round, in either order: the shift, and the polynomial where the bit shifted out was set. -/
theorem crcBit_eq (p : CrcParams) (c : U32) :
    crcBit p c = if crcOutBit p c then crcShift p c ^^^ p.poly else crcShift p c := by
  unfold crcBit crcOutBit crcShift
  cases p.order <;> rfl

@[simp] theorem crcInBit_xor (p : CrcParams) (c c' : U32) : crcInBit p (c ^^^ c') = (crcInBit p c ^^ crcInBit p c') := by
  unfold crcInBit
  cases p.order <;> simp

@[simp] theorem crcInBit_crcShift (p : CrcParams) (c : U32) : crcInBit p (crcShift p c) = false := by
  unfold crcInBit crcShift
  cases p.order <;> simp

/-- The polynomial's constant term stands at the end where the 0 is shifted in. -/
theorem hasConstantTerm_eq (p : CrcParams) : hasConstantTerm p = crcInBit p p.poly := by
  unfold hasConstantTerm crcInBit
  cases p.order <;> rfl

/-- The shifted register and the bit shifted out are the whole register. -/
theorem eq_of_crcShift_eq (hshift : crcShift p c = crcShift p c') (hout : crcOutBit p c = crcOutBit p c') : c = c' := by
  have hbit (i : Nat) := congrArg (BitVec.getLsbD · i) hshift
  refine BitVec.eq_of_getLsbD_eq fun i hi => ?_
  unfold crcShift at hbit
  unfold crcOutBit at hout
  cases horder : p.order with
  | reflected =>
    simp only [horder, BitVec.getLsbD_ushiftRight] at hbit hout
    cases i with
    | zero => exact hout
    | succ i => simpa only [Nat.add_comm 1] using hbit i
  | unreflected =>
    simp only [horder, BitVec.getLsbD_shiftLeft] at hbit hout
    by_cases hlast : i = 31
    · rw [hlast, hout]
    · have hlt : i + 1 < 32 := by omega
      simpa [hlt] using hbit (i + 1)

/-- After a round the polynomial's constant term tells which bit was shifted out. -/
theorem crcInBit_crcBit (hp : hasConstantTerm p = true) (c : U32) : crcInBit p (crcBit p c) = crcOutBit p c := by
  rw [hasConstantTerm_eq] at hp
  rw [crcBit_eq]
  cases crcOutBit p c <;> simp [hp]

/-- So a round can be undone. -/
theorem crcBit_injective (hp : hasConstantTerm p = true) : Function.Injective (crcBit p) := by
  intro c c' h
  have hout : crcOutBit p c = crcOutBit p c' := by rw [← crcInBit_crcBit hp, h, crcInBit_crcBit hp]
  refine eq_of_crcShift_eq ?_ hout
  rw [crcBit_eq, crcBit_eq, hout] at h
  split at h
  · exact (BitVec.xor_left_inj _).mp h
  · exact h

/-! ### A byte, the bytes after it, and the end (R110) -/

/-- Bytes enter the register at distinct values. -/
theorem crcIn_injective (p : CrcParams) : Function.Injective (crcIn p) := by
  intro b b' h
  unfold crcIn at h
  refine BitVec.eq_of_toNat_eq ?_
  cases horder : p.order <;> simp only [horder] at h <;> bv_omega

/-- The eight rounds of a byte can be undone. -/
theorem crcByte_inj (hp : hasConstantTerm p = true) {b b' : Byte} :
    crcByte p c b = crcByte p c' b' ↔ c ^^^ crcIn p b = c' ^^^ crcIn p b' := by
  simp only [crcByte, (crcBit_injective hp).eq_iff]

/-- Distinct registers stay distinct over any bytes. -/
theorem foldl_crcByte_injective (hp : hasConstantTerm p = true) (bytes : List Byte) :
    Function.Injective fun c => bytes.foldl (crcByte p) c := by
  induction bytes with
  | nil => exact fun _ _ h => h
  | cons b bytes ih => exact fun c c' h => (BitVec.xor_left_inj _).mp ((crcByte_inj hp).mp (ih h))

/-- The end of the checksum, a reversal perhaps and an XOR, can be undone. -/
theorem crcFinal_injective (p : CrcParams) : Function.Injective (crcFinal (.params p)) := by
  intro c c' h
  have hout := (BitVec.xor_left_inj _).mp h
  cases hrev : p.reverseOut with
  | false => simpa [hrev] using hout
  | true =>
    simp only [hrev, if_true] at hout
    rw [← BitVec.reverse_reverse_eq (x := c), hout, BitVec.reverse_reverse_eq]

end

/-- Settles O14: two values of one byte take the register to distinct values, and nothing after it brings them together. -/
theorem oneByteCorruptionIsDetected : Obligations.OneByteCorruptionIsDetected := by
  intro p before after b b' hp hne heq
  simp only [crcFn, List.foldl_append, List.foldl_cons, crcStep] at heq
  have hbyte := foldl_crcByte_injective hp after (crcFinal_injective p heq)
  exact hne (crcIn_injective p ((BitVec.xor_right_inj _).mp ((crcByte_inj hp).mp hbyte)))

end Sys2Proof.Machine
end

section
/-! A feed run to its end (42_rx_parser R170): one step a byte with no other agent between comes to `rxAll` of the bytes, as
long as no byte halts the block. So a frame's `receive` is `rxAll` of its wire bytes. -/

namespace Sys2Proof.Machine

open Sys2Proof

section

variable {s u : State} {bs : List Byte} {rest : List Input}

/-- A feed in progress: the bytes still to feed, the schedule, and the poller the agent of the step. -/
def feeding (bs : List Byte) (inputs : List Input) (s : State) : State :=
  { s with tasks.feed := bs, env.inputs := inputs, env.agent := .poller }

/-- A received byte reads neither the feed nor the schedule. -/
theorem rxByte_feeding (b : Byte) (bs : List Byte) (inputs : List Input) (s : State) :
    rxByte b (feeding bs inputs s) = feeding bs inputs (rxByte b s) :=
  calc rxByte b (feeding bs inputs s)
      = withOuter { outerOf s with feed := bs, inputs := inputs, agent := .poller } (rxByte b s) :=
        rxByte_outer { outerOf s with feed := bs, inputs := inputs, agent := .poller } s b
    _ = feeding bs inputs (rxByte b s) := by rw [← outerOf_rxByte s b]; rfl

/-- A byte that does not halt the block leaves the others to feed. -/
theorem fed_feeding (b : Byte) (bs' : List Byte) (inputs : List Input) (hh : (rxByte b s).halted = none) :
    fed b bs (feeding bs' inputs s) = feeding bs inputs (rxByte b s) := by
  unfold fed
  rw [rxByte_feeding]
  exact if_pos hh

/-- A step of a feed in progress: the poller goes on with its next byte. -/
theorem step_feeding (b : Byte) (hh : s.halted = none) (hi : s.inited = true) (hpoll : s.poll = none)
    (hnext : (rxByte b s).halted = none) :
    step (feeding (b :: bs) (goOn .poller :: rest) s) = .next (feeding bs rest (rxByte b s)) :=
  calc step (feeding (b :: bs) (goOn .poller :: rest) s)
      = resumeAgent (feeding (b :: bs) rest s) := step_of_resume hh rfl
    _ = .next (pollerStep (feeding (b :: bs) rest s)) := resumeAgent_poller hh hi rfl (by simp [agentBusy, feeding])
    _ = .next (feedStep (feeding (b :: bs) rest s)) := by simp only [pollerStep, feeding, hpoll]
    _ = .next (fed b bs (feeding (b :: bs) rest s)) := congrArg _ (feedStep_cons b bs (feeding (b :: bs) rest s))
    _ = .next (feeding bs rest (rxByte b s)) := congrArg _ (fed_feeding b _ rest hnext)

/-- Bytes fed without a fatal stop begin without one. -/
theorem halted_of_rxAll (h : (rxAll bs s).halted = none) : s.halted = none := by
  by_contra hs
  rw [rxAll_halted bs (Option.isSome_iff_ne_none.mpr hs)] at h
  exact hs h

/-- A feed in progress, run to its end. -/
theorem run_feeding (hi : s.inited = true) (hpoll : s.poll = none) (hend : (rxAll bs s).halted = none) :
    Host.Core.run Sys2Proof.core bs.length (feeding bs (List.replicate bs.length (goOn .poller) ++ rest) s) =
      .next (feeding [] rest (rxAll bs s)) := by
  induction bs generalizing s with
  | nil => rfl
  | cons b bs ih =>
    have hh := halted_of_rxAll hend
    rw [rxAll_cons b bs hh] at hend ⊢
    have hkeeps := RxKeeps.of_rxByte b s
    exact (run_succ (step_feeding b hh hi hpoll (halted_of_rxAll hend))).trans
      (ih (hkeeps.inited.trans hi) (hkeeps.poll.trans hpoll) hend)

/-- The poller that may begin an operation has none in progress. -/
theorem idle_of_ready_poller (h : Ready .poller s) : s.env.agent = .poller ∧ s.poll = none ∧ s.tasks.feed = [] := by
  obtain ⟨-, -, hallowed, hidle⟩ := h
  have hagent : s.env.agent = .poller := by
    cases ha : s.env.agent <;> simp_all [agentAllowed]
  exact ⟨hagent, by simpa [agentBusy, hagent] using hidle⟩

/-- The state at the end of a feed that an idle poller began. -/
theorem feeding_done (h : Ready .poller s) : feeding [] s.env.inputs (rxAll bs s) = rxAll bs s := by
  obtain ⟨hagent, -, hfeed⟩ := idle_of_ready_poller h
  have hkeeps := RxKeeps.of_rxAll bs s
  rw [← hkeeps.inputs, feeding, ← hfeed, ← hkeeps.feed, ← hagent, ← hkeeps.agent]

/-- The step that issues an instruction of a well-formed frame feeds the frame's first byte. -/
theorem step_frameInstr {f : Frame} {b : Byte} (t : MsgType) (h : Ready .poller s) (hc : configOk s.cfg)
    (hwf : f.wf s.cfg = true) (hbytes : encodeFrame s.cfg t f = b :: bs) (hnext : (rxByte b s).halted = none) :
    step { s with env.inputs := issue s.cfg .poller (frameInstr t f) :: rest } = .next (feeding bs rest (rxByte b s)) := by
  have ⟨_, hpoll, hfeed⟩ := idle_of_ready_poller h
  obtain ⟨hh, hi, -, -⟩ := h
  have hdecode : decode s.cfg (frameInstr t f).format (encode s.cfg (frameInstr t f)) = .ok (frameInstr t f, []) :=
    decode_of_encode hc (wf_frameInstr s.cfg t f ▸ hwf) rfl (List.append_nil _).symm
  have hready : Ready .poller (feeding s.tasks.feed rest s) :=
    ⟨hh, hi, rfl, by simp [agentBusy, feeding, hpoll, hfeed]⟩
  calc step { s with env.inputs := issue s.cfg .poller (frameInstr t f) :: rest }
      = exec (frameInstr t f) (feeding s.tasks.feed rest s) := step_of_decode_ok hh rfl hdecode
    _ = .next (fed b bs (feeding s.tasks.feed rest s)) := exec_frameInstr_of_bytes t hready rfl hbytes.symm
    _ = .next (feeding bs rest (rxByte b s)) := congrArg _ (fed_feeding b _ rest hnext)

/-- A frame received with no other agent between its bytes comes to its bytes fed in one go (30_encoding R94). -/
theorem receive_frameInstr {f : Frame} (t : MsgType) (h : Ready .poller s) (hc : configOk s.cfg) (hwf : f.wf s.cfg = true)
    (hall : rxAll (encodeFrame s.cfg t f) s = u) (hend : u.halted = none) : receive (frameInstr t f) s = .next u := by
  subst hall
  have ⟨hh, hi, _, _⟩ := h
  have ⟨_, hpoll, _⟩ := idle_of_ready_poller h
  obtain ⟨b, bs, hbytes⟩ : ∃ b bs, encodeFrame s.cfg t f = b :: bs := frameBytes_eq_cons ..
  have hkeeps := RxKeeps.of_rxByte b s
  have hdone := feeding_done (bs := b :: bs) h
  rw [hbytes, rxAll_cons b bs hh] at hend
  rw [rxAll_cons b bs hh] at hdone
  have hfirst := step_frameInstr (rest := List.replicate bs.length (goOn .poller) ++ s.env.inputs) t h hc hwf hbytes
    (halted_of_rxAll hend)
  have hrun := run_feeding (rest := s.env.inputs) (hkeeps.inited.trans hi) (hkeeps.poll.trans hpoll) hend
  rw [receive, receiveFirst, frameScript, encode_frameInstr, hbytes, rxAll_cons b bs hh, ← hdone]
  exact (run_succ hfirst).trans hrun

end

end Sys2Proof.Machine
end

section
/-! A recognised frame on the receive line, whatever its type (42_rx_parser R160 to R162, R165, R166): its intron, its header,
and its payload where the parser discards it. -/

namespace Sys2Proof.Machine

open Sys2Proof

section

variable {s : State} {f : Frame} {code : Byte}

/-! ### The intron (R160) -/

/-- The state after the intron's last byte: the intron as received, the bytes given up before it reported. -/
def intronReceived (s : State) : State :=
  { s with
    rx := { s.rx with pstate := .header, ipos := 0, hpos := 0, ibuf := s.sess.intron, skipped := 0 }
    out.events := s.out.events ++ resyncEvents s.rx.skipped }

/-- A byte of the intron at its place is kept; the last one completes the intron. -/
theorem rxByte_of_intron {b : Byte} (hs : s.rx.pstate = .seekingIntron) (hb : s.sess.intron[s.rx.ipos]? = some b) :
    rxByte b s =
      if s.rx.ipos + 1 = s.cfg.intronLen then beginHeader (reportSkipped { s with rx := matchByte b s.rx })
      else { s with rx := matchByte b s.rx } := by
  simp only [rxByte, hs, seekByte, hb, if_true]

/-- The rest of the intron, from any number of its bytes matched. -/
theorem rxAll_intron_rest {done todo junk : List Byte} (hh : s.halted = none) (hs : s.rx.pstate = .seekingIntron)
    (hlen : s.sess.intron.length = s.cfg.intronLen) (hintron : s.sess.intron = done ++ todo) (htodo : todo ≠ [])
    (hpos : s.rx.ipos = done.length) (hbuf : s.rx.ibuf = done ++ junk) (hjunk : junk.length = todo.length) :
    rxAll todo s = intronReceived s := by
  induction todo generalizing s done junk with
  | nil => exact absurd rfl htodo
  | cons b todo ih =>
    obtain ⟨j, junk, rfl⟩ := List.exists_of_length_succ _ hjunk
    have hbyte : s.sess.intron[s.rx.ipos]? = some b := by simp [hintron, hpos]
    have hput : (matchByte b s.rx).ibuf = (done ++ [b]) ++ junk := by simp [matchByte, hbuf, hpos]
    rw [rxAll_cons b todo hh, rxByte_of_intron hs hbyte, ← hlen]
    cases todo with
    | nil =>
      have hlast : s.rx.ipos + 1 = s.sess.intron.length := by simp [hintron, hpos]
      have hfull : (matchByte b s.rx).ibuf = s.sess.intron := by simp_all
      rw [if_pos hlast, reportSkipped_eq, intronReceived, ← hfull]
      rfl
    | cons b' todo =>
      have hinner : ¬ s.rx.ipos + 1 = s.sess.intron.length := by simp [hintron, hpos]
      rw [if_neg hinner]
      exact ih (s := { s with rx := matchByte b s.rx }) (done := done ++ [b]) hh hs hlen (by simp [hintron]) (by simp)
        (by simp [matchByte, hpos]) hput (by simpa using hjunk)

/-! ### The header (R161) -/

/-- A byte of the header or checksum is kept; the eighth decodes the header. -/
theorem rxByte_of_header (b : Byte) (hs : s.rx.pstate = .header) :
    rxByte b s =
      if s.rx.hpos + 1 = 8 then headerComplete { s with rx := { collectByte b s.rx with hpos := 0 } }
      else { s with rx := collectByte b s.rx } := by
  simp only [rxByte, hs, headerByte]

/-- The rest of the header and checksum bytes, from any number of them collected: the last decodes the header. -/
theorem rxAll_header_rest {done todo junk : List Byte} (hh : s.halted = none) (hs : s.rx.pstate = .header)
    (hlen : (done ++ todo).length = 8) (htodo : todo ≠ []) (hpos : s.rx.hpos = done.length)
    (hbuf : s.rx.hbuf = done ++ junk) (hjunk : junk.length = todo.length) :
    rxAll todo s = headerComplete { s with rx := { s.rx with hbuf := done ++ todo, hpos := 0 } } := by
  induction todo generalizing s done junk with
  | nil => exact absurd rfl htodo
  | cons b todo ih =>
    obtain ⟨j, junk, rfl⟩ := List.exists_of_length_succ _ hjunk
    have hput : (collectByte b s.rx).hbuf = (done ++ [b]) ++ junk := by simp [collectByte, hbuf, hpos]
    rw [rxAll_cons b todo hh, rxByte_of_header b hs]
    cases todo with
    | nil =>
      have hlast : s.rx.hpos + 1 = 8 := by simp_all
      have hfull : (collectByte b s.rx).hbuf = done ++ [b] := by simp_all
      rw [if_pos hlast, ← hfull]
      rfl
    | cons b' todo =>
      have hinner : ¬ s.rx.hpos + 1 = 8 := by
        simp only [List.length_append, List.length_cons] at hlen
        omega
      rw [if_neg hinner, ih (s := { s with rx := collectByte b s.rx }) (done := done ++ [b]) hh hs
        (by simpa using hlen) (by simp) (by simp [collectByte, hpos]) hput (by simpa using hjunk)]
      simp [collectByte]

/-- The header and checksum bytes of a frame decode to its fields (R162, 00_scope R12). -/
theorem decodeHeader_of_hbuf {p : Parser} {t v : Byte} {n : Nat} {c : U32} (h : p.hbuf = headerBytes t v n ++ be32 c) :
    decodeHeader p = { p with rtype := t, rvar := v, rsize := BitVec.ofNat 16 n, rcrc := c } := by
  rw [decodeHeader, h]
  exact congrArg₂ (fun size crc =>
      { p with hbuf := headerBytes t v n ++ be32 c, rtype := t, rvar := v, rsize := size, rcrc := crc })
    (unbe16_be16 (BitVec.ofNat 16 n)) (unbe32_be32 c)

/-- The state when a recognised frame's header is decoded, before its type's path is taken. -/
def headerReceived (code : Byte) (f : Frame) (s : State) : State :=
  { s with
    rx := { parserDecoded code f s.rx with pstate := .header, ipos := 0, hpos := 0 }
    out.events := s.out.events ++ resyncEvents s.rx.skipped }

/-- The size register of a recognised frame is its payload's length (R162). -/
theorem headerReceived_rsize (code : Byte) (s : State) (hwf : f.wf s.cfg = true) :
    (headerReceived code f s).rx.rsize.toNat = f.payload.length := by
  obtain ⟨-, hlen⟩ := Frame.wf_iff.mp hwf
  rw [headerReceived, parserDecoded, BitVec.toNat_ofNat]
  omega

/-- The type register of a frame's header is its type's (R162). -/
theorem headerReceived_rtype (t : MsgType) (hc : configOk s.cfg) (hcode : code = typeCodeOf s.cfg.typeCode t) :
    typeOf s.cfg.typeCode (headerReceived code f s).rx.rtype = some t := by
  obtain ⟨-, hcodes, -⟩ := hc
  rw [hcode]
  exact typeOf_typeCodeOf hcodes t

/-- The prelude of a recognised frame takes the path of its type (R160 to R162). -/
theorem rxAll_prelude (code : Byte) (hh : s.halted = none) (hstart : atFrameStart s) (hf : recognisable s f) :
    rxAll (framePrelude f.intron code f.var f.payload.length f.checksum) s = headerPath (headerReceived code f s) := by
  obtain ⟨⟨hcfg, -⟩, hs, hipos, -, hibuf, hhbuf, -⟩ := hstart
  obtain ⟨hwf, hintron⟩ := hf
  obtain ⟨hlen, -⟩ := Frame.wf_iff.mp hwf
  have hne : f.intron ≠ [] := List.ne_nil_of_length_pos (by omega)
  have hfirst : rxAll f.intron s = intronReceived s :=
    rxAll_intron_rest (done := []) hh hs (hintron ▸ hlen) hintron.symm hne hipos rfl (hibuf.trans hlen.symm)
  have hheader := rxAll_header_rest (s := intronReceived s) (done := [])
    (todo := headerBytes code f.var f.payload.length ++ be32 f.checksum) hh rfl rfl (by simp [headerBytes]) rfl rfl hhbuf
  rw [framePrelude, List.append_assoc, rxAll_append, hfirst, hheader, headerComplete,
    decodeHeader_of_hbuf rfl, headerReceived, parserDecoded, hintron]
  rfl

/-! ### The discard (R165, R166) -/

/-- A discarded byte leaves one byte fewer to discard. -/
theorem rxByte_startDiscard {n : U16} (b : Byte) (hn : n ≠ 0) : rxByte b (startDiscard n s) = startDiscard (n - 1) s := by
  rw [startDiscard, if_neg hn]
  unfold startDiscard
  split
  next hlast => exact if_pos hlast
  next hmore => exact if_neg hmore

@[simp] theorem startDiscard_halted (n : U16) : (startDiscard n s).halted = s.halted := by
  rw [startDiscard_eq]

/-- Discarding all the bytes of a payload ends the frame. -/
theorem rxAll_startDiscard {bs : List Byte} (hh : s.halted = none) (hsize : bs.length ≤ 65535) :
    rxAll bs (startDiscard (BitVec.ofNat 16 bs.length) s) = endFrame s := by
  induction bs with
  | nil => rfl
  | cons b bs ih =>
    rw [List.length_cons] at hsize ⊢
    have hcount : BitVec.ofNat 16 (bs.length + 1) - 1 = BitVec.ofNat 16 bs.length := by bv_omega
    have hn : BitVec.ofNat 16 (bs.length + 1) ≠ 0 := by bv_omega
    rw [rxAll_cons b bs ((startDiscard_halted _).trans hh), rxByte_startDiscard b hn, hcount]
    exact ih (by omega)

end

end Sys2Proof.Machine
end

section
/-! A PACKET frame with a payload (42_rx_parser R162, R164, 43_rx_handlers R196, R197, R199): discarded where the allocation
failed, else streamed byte by byte into the chain, which is delivered or released at the last byte. -/

namespace Sys2Proof.Machine

open Sys2Proof

section

variable {s : State}

/-! ### The stream (R164) -/

/-- How a PACKET with a payload ends once its chain is full: delivered under a right checksum, else released (43_rx_handlers
R196, R197, R203). -/
def packetEnded (full : Chain) (s : State) : State :=
  if frameCrc s.cfg.crc s.rx.ibuf (s.rx.hbuf.take 4) full.flatten = s.rx.rcrc then
    { s with
      rx := parserIdle { s.rx with chain := none }
      sess := sessionLinked s.rx.rvar s.sess
      out.delivered := s.out.delivered ++ [full.flatten]
      out.netifLink := s.out.netifLink ++ linkNotes s.rx.rvar s.sess }
  else
    { s with
      rx := parserIdle { s.rx with chain := none }
      out.events := s.out.events ++ [.crcMismatch s.rx.rtype]
      tasks.released := s.tasks.released ++ [full] }

/-- The dispatch of a PACKET whose chain is full. -/
theorem endFrame_dispatch_packet {full : Chain} (hs : s.rx.pstate = .payloadStreaming) (hsize : s.rx.rsize ≠ 0)
    (htype : typeOf s.cfg.typeCode s.rx.rtype = some .packet) (hchain : s.rx.chain = some full) :
    endFrame (dispatch s) = packetEnded full s := by
  have hpayload : dispatchPayload s.rx = full.flatten := by simp [dispatchPayload, hs, hchain, chainBytes]
  rw [dispatch, hpayload, htype, packetEnded]
  split
  next hright =>
    rw [checkFrame, hright, beq_self_eq_true, handle_packet, if_neg hsize, handlePacket_eq, hchain]
    rfl
  next hwrong =>
    rw [checkFrame, beq_eq_false_iff_ne.mpr hwrong, handle_bad, handleBadChecksum_eq, hchain]
    rfl

/-- A byte written at the cursor stands behind the bytes written before it. -/
theorem putByte_flatten_append {p : Parser} {c : Chain} {done junk : List Byte} {b j : Byte} (hcursor : cursorOk p c)
    (hflat : c.flatten = done ++ j :: junk) (hremain : p.remain.toNat = (j :: junk).length) :
    (putByte c p.curFrag p.curOff b).flatten = (done ++ [b]) ++ junk := by
  obtain ⟨-, htotal, hfrag, hoff, hsum⟩ := hcursor
  have hpos : chainPos c p.curFrag p.curOff = done.length := by
    rw [hflat, List.length_append] at htotal
    rw [chainPos]
    omega
  rw [putByte_flatten c _ _ b hfrag hoff, hflat, hpos]
  simp

/-- A streamed byte is written and counted; the last one ends the frame (R164). -/
theorem rxByte_of_stream (b : Byte) (hs : s.rx.pstate = .payloadStreaming) :
    rxByte b s = finishPayload { s with rx := countByte (chainWrite b s.rx) } := by
  simp only [rxByte, hs, streamByte]

/-- A streamed byte leaves the frame's header registers and the resting state, and counts. -/
theorem streamed_registers {p q : Parser} {c : Chain} (b : Byte) (hchain : p.chain = some c)
    (hq : q = countByte (chainWrite b p)) :
    q.pstate = p.pstate ∧ q.rtype = p.rtype ∧ q.rsize = p.rsize ∧ q.remain = p.remain - 1 ∧
      q.chain = some (putByte c p.curFrag p.curOff b) := by
  rw [hq, chainWrite_eq b hchain]
  exact ⟨rfl, rfl, rfl, rfl, rfl⟩

/-- How the frame will end depends on nothing that a streamed byte changes. -/
theorem packetEnded_streamed {c full : Chain} (b : Byte) (hchain : s.rx.chain = some c) :
    packetEnded full { s with rx := countByte (chainWrite b s.rx) } = packetEnded full s := by
  rw [chainWrite_eq b hchain]
  rfl

/-- The rest of a payload, from any number of its bytes written: they fill the chain behind those, and the last ends the
frame. -/
theorem rxAll_stream_rest {c : Chain} {done todo junk : List Byte} (hh : s.halted = none)
    (hs : s.rx.pstate = .payloadStreaming) (htype : typeOf s.cfg.typeCode s.rx.rtype = some .packet)
    (hsize : s.rx.rsize ≠ 0) (hchain : s.rx.chain = some c) (hcursor : cursorOk s.rx c) (hflat : c.flatten = done ++ junk)
    (hjunk : junk.length = todo.length) (hremain : s.rx.remain.toNat = todo.length) (htodo : todo ≠ []) :
    ∃ full : Chain, full.flatten = done ++ todo ∧ full.map List.length = c.map List.length ∧
      rxAll todo s = packetEnded full s := by
  induction todo generalizing s c done junk with
  | nil => exact absurd rfl htodo
  | cons b todo ih =>
    obtain ⟨j, junk, rfl⟩ := List.exists_of_length_succ _ hjunk
    have hsome : s.rx.remain ≠ 0 := fun h0 => by simp [h0] at hremain
    have hcursor' := cursorOk_chainWrite b hchain hcursor hsome
    have hflat' := putByte_flatten_append (b := b) hcursor hflat (hremain.trans hjunk.symm)
    have hlengths := putByte_lengths c s.rx.curFrag s.rx.curOff b
    have hended (full : Chain) := packetEnded_streamed (full := full) b hchain
    rw [rxAll_cons b todo hh, rxByte_of_stream b hs, finishPayload]
    simp only [← hended]
    generalize hq : countByte (chainWrite b s.rx) = q at hcursor' ⊢
    obtain ⟨hqs, hqtype, hqsize, hqremain, hqchain⟩ := streamed_registers b hchain hq.symm
    have hcount : q.remain.toNat = todo.length := by
      have hone := countByte_remain hsome
      rw [countByte, ← hqremain, hremain, List.length_cons] at hone
      exact Nat.succ_inj.mp hone
    cases todo with
    | nil =>
      obtain rfl : junk = [] := List.length_eq_zero_iff.mp (by simpa using hjunk)
      refine ⟨_, by simpa using hflat', hlengths, ?_⟩
      rw [if_pos (BitVec.eq_of_toNat_eq hcount)]
      exact endFrame_dispatch_packet (hqs.trans hs) (hqsize ▸ hsize) (hqtype ▸ htype) hqchain
    | cons b' todo =>
      have hmore : q.remain ≠ 0 := fun h0 => by simp [h0] at hcount
      obtain ⟨full, hfull, hsame, hrun⟩ := ih (s := { s with rx := q }) hh (hqs.trans hs) (hqtype ▸ htype)
        (hqsize ▸ hsize) hqchain (hcursor' hmore) hflat' (by simpa using hjunk) hcount (by simp)
      rw [if_neg hmore]
      exact ⟨full, by simpa using hfull, hsame.trans hlengths, hrun⟩

/-- A payload streamed into the chain that the collaborator gave for it fills the chain. -/
theorem rxAll_openChain {lens : List Nat} {payload : List Byte} (hh : s.halted = none)
    (htype : typeOf s.cfg.typeCode s.rx.rtype = some .packet) (hsize : s.rx.rsize.toNat = payload.length)
    (hne : payload ≠ []) (hsum : lens.sum = payload.length) (hpos : ∀ l ∈ lens, 1 ≤ l) :
    ∃ full : Chain, full.flatten = payload ∧ full.map List.length = lens ∧
      rxAll payload (openChain (some lens) s) = packetEnded full s := by
  have hsome : s.rx.rsize ≠ 0 := fun h0 => hne (List.length_eq_zero_iff.mp (by simpa [h0] using hsize.symm))
  have hlen : (freshChain lens).flatten.length = payload.length := (freshChain_bytes_length lens).trans hsum
  have hcursor : cursorOk (openChain (some lens) s).rx (freshChain lens) :=
    cursorOk_freshChain (hsum.trans hsize.symm) hpos hsome rfl rfl rfl
  have hstream := rxAll_stream_rest (s := openChain (some lens) s) (done := []) hh rfl htype hsome rfl hcursor rfl hlen
    hsize hne
  rw [freshChain_lengths] at hstream
  exact hstream

/-! ### The frame -/

section

variable {f : Frame} {code : Byte} {answer : Option (List Nat)} {d : Draws}

/-- A PACKET header with a payload takes the allocation's answer (R162). -/
theorem headerPath_packet (htype : typeOf s.cfg.typeCode s.rx.rtype = some .packet) (hsize : s.rx.rsize ≠ 0)
    (hd : drawAlloc s.rx.rsize.toNat s.env.draws = (answer, d)) :
    headerPath s = openChain answer { s with env.draws := d } := by
  simp only [headerPath, htype, if_neg hsize, packetHeader, hd]

/-- A recognised PACKET frame with a payload: the payload follows the answer of the allocation. -/
theorem rxAll_packetFrame (hh : s.halted = none) (hstart : atFrameStart s) (hf : recognisable s f)
    (hcode : code = s.cfg.typeCode.packet) (hne : f.payload ≠ [])
    (hd : drawAlloc f.payload.length s.env.draws = (answer, d)) :
    rxAll (encodeFrame s.cfg .packet f) s =
      rxAll f.payload (openChain answer (headerReceived code f { s with env.draws := d })) := by
  have ⟨hc, _⟩ := hstart
  have ⟨hwf, _⟩ := hf
  have htype := headerReceived_rtype (f := f) .packet hc hcode
  have hlen := headerReceived_rsize code s hwf
  have hsize : (headerReceived code f s).rx.rsize ≠ 0 := fun h0 =>
    hne (List.length_eq_zero_iff.mp (by simpa [h0] using hlen.symm))
  have hbytes : encodeFrame s.cfg .packet f =
      framePrelude f.intron code f.var f.payload.length f.checksum ++ f.payload := by rw [hcode]; rfl
  rw [hbytes, rxAll_append, rxAll_prelude code hh hstart hf,
    headerPath_packet htype hsize (hlen.symm ▸ hd)]
  rfl

/-- Where the collaborator gave a chain, the payload fills it, and the frame ends. -/
theorem rxAll_packetPayload (hh : s.halted = none) (hc : configOk s.cfg) (hwf : f.wf s.cfg = true)
    (hcode : code = s.cfg.typeCode.packet) (hne : f.payload ≠ [])
    (hd : drawAlloc f.payload.length s.env.draws = (answer, d)) (hsome : answer ≠ none) :
    ∃ full : Chain, full.flatten = f.payload ∧ answer = some (full.map List.length) ∧
      rxAll f.payload (openChain answer (headerReceived code f { s with env.draws := d })) =
        packetEnded full (headerReceived code f { s with env.draws := d }) := by
  obtain ⟨lens, rfl⟩ := Option.ne_none_iff_exists'.mp hsome
  obtain ⟨hsum, hpos⟩ := drawAlloc_legal _ _ lens (congrArg Prod.fst hd)
  obtain ⟨full, hfull, hlens, hend⟩ := rxAll_openChain (s := headerReceived code f { s with env.draws := d }) hh
    (headerReceived_rtype .packet hc hcode) (headerReceived_rsize code s hwf) hne hsum hpos
  exact ⟨full, hfull, hlens ▸ rfl, hend⟩

/-- The check at the end of a recognised frame is the frame's own (40_codec R111, R114). -/
theorem packetEnded_received {full : Chain} (code : Byte) (d : Draws) (hchain : s.rx.chain = none)
    (hfull : full.flatten = f.payload) :
    packetEnded full (headerReceived code f { s with env.draws := d }) =
      if checksumRight s.cfg code f then
        { s with
          rx := parserAfter code f s.rx
          sess := sessionLinked f.var s.sess
          out := { s.out with delivered := s.out.delivered ++ [f.payload]
                              netifLink := s.out.netifLink ++ linkNotes f.var s.sess
                              events := s.out.events ++ resyncEvents s.rx.skipped }
          env.draws := d }
      else
        { s with
          rx := parserAfter code f s.rx
          out.events := s.out.events ++ resyncEvents s.rx.skipped ++ [.crcMismatch code]
          tasks.released := s.tasks.released ++ [full]
          env.draws := d } := by
  have hnone : { parserDecoded code f s.rx with chain := none } = parserDecoded code f s.rx := by
    rw [← hchain]
    rfl
  rw [packetEnded, hfull, parserAfter, ← hnone]
  exact if_congr eq_comm rfl rfl

end

end

/-- Settles O39: the payload is discarded, or it fills the chain, which the frame's checksum then delivers or releases. -/
theorem packetFrame : Obligations.PacketFrame := by
  intro s f code answer d hready hstart hf hcode hne hd
  have ⟨hh, _⟩ := hready
  have ⟨hc, _, _, hchain, _⟩ := hstart
  have ⟨hwf, _⟩ := hf
  have hbytes := rxAll_packetFrame hh hstart hf hcode hne hd
  have hpayload := rxAll_packetPayload hh hc hwf hcode hne hd
  refine ⟨?dropped, ?delivered, ?released⟩
  case dropped =>
    rintro rfl
    have hend := rxAll_startDiscard (s := headerReceived code f { s with env.draws := d }) hh (Frame.wf_iff.mp hwf).2
    exact receive_frameInstr .packet hready hc hwf (hbytes.trans hend) hh
  case delivered =>
    intro hsome hright
    obtain ⟨full, hfull, -, hend⟩ := hpayload hsome
    rw [packetEnded_received code d hchain hfull, if_pos hright] at hend
    exact receive_frameInstr .packet hready hc hwf (hbytes.trans hend) hh
  case released =>
    intro hsome hwrong
    obtain ⟨full, hfull, hlens, hend⟩ := hpayload hsome
    rw [packetEnded_received code d hchain hfull, if_neg hwrong] at hend
    exact ⟨full, hfull, hlens, receive_frameInstr .packet hready hc hwf (hbytes.trans hend) hh⟩

end Sys2Proof.Machine
end

section
/-! The labelled steps of a caller's SEND or JOIN_AP and the completion (41_transmit R130 to R136): an equation for what each
comes to, as one record update. -/

namespace Sys2Proof.Machine

open Sys2Proof

section

variable {s : State} {k : Nat} {job : TxJob}

/-! ### The operations and the steps they begin with -/

/-- The caller of the step, by its index. -/
theorem callerIndex_of_agent (ha : s.env.agent = .caller k) : callerIndex s = k := by
  simp only [callerIndex, ha]

/-- SEND begins with S0 (R130). -/
theorem exec_send (t v : Byte) (frags : List (List Byte)) (hready : Ready .caller s) (ha : s.env.agent = .caller k) :
    exec (.send t v frags) s = .next (stepAcquire k (.send t v frags) s) := by
  rw [← callerIndex_of_agent ha]
  exact enter_of_ready hready _

/-- JOIN_AP begins with S0 (R136). -/
theorem exec_joinAp (ssid pass : List Byte) (hready : Ready .caller s) (ha : s.env.agent = .caller k) :
    exec (.joinAp ssid pass) s = .next (stepAcquire k (.join ssid pass) s) := by
  rw [← callerIndex_of_agent ha]
  exact enter_of_ready hready _

/-- TX_DONE is one step (R134). -/
theorem exec_txDone (st : DoneStatus) (hready : Ready .txhw s) : exec (.txDone st) s = .next (txDone st s) :=
  enter_of_ready hready _

/-- A caller that goes on with a SEND or JOIN_AP takes the labelled step it stands at. -/
theorem resumeAgent_tx {stage : TxStage} (hh : s.halted = none) (hi : s.inited = true) (ha : s.env.agent = .caller k)
    (hop : callerOp s k = some (.tx job stage)) : resumeAgent s = .next (stepTx k job stage s) :=
  resumeAgent_caller hh hi ha hop

/-! ### S0 -/

/-- S0 with the lock free (R130). -/
theorem stepAcquire_of_free (hfree : s.tx.lock = none) (job : TxJob) :
    stepAcquire k job s =
      { s with tx.lock := some k, tasks.callers := s.tasks.callers.set k (some (.tx job (stageAfterLock job))) } := by
  simp only [stepAcquire, hfree]
  rfl

/-- S0 with the lock held: the caller stands at S0 (R13; log entry 12). -/
theorem stepAcquire_of_held (hheld : s.tx.lock ≠ none) (job : TxJob) :
    stepAcquire k job s = setCallerOp k (some (.tx job .acquire)) s := by
  obtain ⟨j, hj⟩ := Option.ne_none_iff_exists'.mp hheld
  simp only [stepAcquire, hj]

/-! ### The end of steps S1 to S3 -/

/-- The model's end of a send is the statements' (R130, R136). -/
theorem endSend_eq (k : Nat) (job : TxJob) (ok : Bool) (s : State) : endSend k job ok s = sendEnded k job ok s := by
  cases job <;> rfl

/-! ### J1, S1 -/

/-- J1 (R136). -/
theorem stepPrepare_eq (k : Nat) (ssid pass : List Byte) (s : State) :
    stepPrepare k ssid pass s =
      if ssid.length ≤ 255 ∧ pass.length ≤ 255 then
        { s with
          tx.pendingIntron := some (drawIntron s.cfg s.env.draws).1
          tasks.callers := s.tasks.callers.set k (some (.tx (.join ssid pass) .build))
          env.draws := (drawIntron s.cfg s.env.draws).2 }
      else releaseLock k false s := by
  unfold stepPrepare
  exact if_congr (credentialsFit_iff ssid pass) rfl rfl

/-- S1 (R130, R131). -/
theorem stepBuild_eq (k : Nat) (job : TxJob) (s : State) :
    stepBuild k job s =
      if fragsTotal (jobFrags s.tx.pendingIntron job) ≤ 65535 then
        { s with
          sess.lastQuery := if jobType s.cfg job = s.cfg.typeCode.scanApGet then some (jobVar job) else s.sess.lastQuery
          tx.seq := some { chunks := jobChunks job s, k := 0, cur := none, status := .running }
          tasks.callers := s.tasks.callers.set k (some (.tx job .start)) }
      else sendEnded k job false s := by
  unfold stepBuild
  rw [trackQuery_eq, endSend_eq]
  exact if_congr (payloadFits_iff _) rfl rfl

/-! ### S2, S3 -/

section

variable {q : TxSeq} (hq : s.tx.seq = some q)

include hq

/-- S2 with a completion outstanding (R132). -/
theorem stepStart_of_pending (hp : s.tx.pending = true) : stepStart k job s = raiseFatal .doubleSignal s := by
  simp only [stepStart, hq, hp, if_true]

/-- S2 where the hardware starts the chunk (R132). -/
theorem stepStart_of_started {d : Draws} (hp : s.tx.pending = false) (hd : drawStart s.env.draws = (true, d)) :
    stepStart k job s =
      { s with
        tx.pending := true
        tx.seq := some { q with cur := some (q.chunks.getD q.k []), status := .running }
        tasks.callers := s.tasks.callers.set k (some (.tx job .resume))
        env.draws := d } := by
  simp only [stepStart, hq, hp, hd]
  rfl

/-- S2 where the hardware refuses it: the rollback (R132). -/
theorem stepStart_of_refused {d : Draws} (hp : s.tx.pending = false) (hd : drawStart s.env.draws = (false, d)) :
    stepStart k job s = sendEnded k job false { s with tx.pending := false, tx.seq := none, env.draws := d } := by
  simp only [stepStart, hq, hp, hd]
  exact endSend_eq k job false _

/-- S3 while the chunk is in flight: the caller is suspended (R132; log entry 12). -/
theorem stepResume_of_waiting (hwaits : s.tx.pending = true ∨ q.status = .running) : stepResume k job s = s := by
  simp only [stepResume, hq]
  split
  · rfl
  next hp =>
    have hst : q.status = .running := hwaits.resolve_left hp
    simp only [hst]

/-- S3 after a failed chunk (R135). -/
theorem stepResume_of_failed (hp : s.tx.pending = false) (hst : q.status = .fail) :
    stepResume k job s = sendEnded k job false { s with tx.seq := none } := by
  simp only [stepResume, hq, hp, hst]
  exact endSend_eq k job false _

/-- S3 after the last chunk (R135). -/
theorem stepResume_of_last (hp : s.tx.pending = false) (hst : q.status = .ok) (hlast : q.k + 1 = q.chunks.length) :
    stepResume k job s = sendEnded k job true { s with tx.seq := none } := by
  simp only [stepResume, hq, hp, hst, hlast, if_true]
  exact endSend_eq k job true _

/-- S3 after a chunk that is not the last: the next, behind the delay from chunk 2 on (R133, R135). -/
theorem stepResume_of_more (hp : s.tx.pending = false) (hst : q.status = .ok) (hmore : q.k + 1 ≠ q.chunks.length) :
    stepResume k job s =
      { s with
        tx.seq := some { q with k := q.k + 1 }
        tasks.callers := s.tasks.callers.set k (some (.tx job (if 2 ≤ q.k + 1 then .delay else .start))) } := by
  simp only [stepResume, hq, hp, hst, if_neg hmore]
  rfl

end

/-! ### J3, TX_DONE -/

/-- J3 (R136). -/
theorem stepFinish_eq {i : List Byte} (k : Nat) (ok : Bool) (hi : s.tx.pendingIntron = some i) :
    stepFinish k ok s =
      { s with
        sess.intron := if ok = true then i else s.sess.intron
        sess.mode := if ok = true ∧ s.sess.mode = .needAp then .connectingAp else s.sess.mode
        tx.pendingIntron := none, tx.lock := none
        tasks.callers := s.tasks.callers.set k none
        tasks.returns := s.tasks.returns ++ [(.caller k, .sent ok)] } := by
  unfold stepFinish commitIntron
  rw [casMode_eq, hi]
  cases ok with
  | false => rfl
  | true => simp [releaseLock, dropPending, giveResult, setCallerOp]

/-- A spurious TX_DONE (R134, 60_exceptions R266). -/
theorem txDone_of_idle (st : DoneStatus) (hp : s.tx.pending = false) : txDone st s = raiseFatal .doubleSignal s :=
  if_neg (by simp [hp])

/-- A successful completion (R134). -/
theorem txDone_ok {q : TxSeq} (hp : s.tx.pending = true) (hq : s.tx.seq = some q) :
    txDone .ok s =
      { s with tx.pending := false, tx.seq := some { q with status := .ok }
               out.wireTx := s.out.wireTx ++ q.cur.getD [] } := by
  simp [txDone, hp, hq, chunkDone, wireOut, chunkInFlight]

/-- A failed completion (R134). -/
theorem txDone_fail {q : TxSeq} {p : Nat} {d : Draws} (hp : s.tx.pending = true) (hq : s.tx.seq = some q)
    (hd : drawSent (q.cur.getD []).length s.env.draws = (p, d)) :
    txDone .fail s =
      { s with tx.pending := false, tx.seq := some { q with status := .fail }
               out.wireTx := s.out.wireTx ++ (q.cur.getD []).take p, env.draws := d } := by
  simp [txDone, hp, hq, hd, chunkDone, wireOut, partialChunk, chunkInFlight]

end

/-! ### The statements of one step -/

/-- Settles O15: S0 with the lock free, for either operation. -/
theorem sendAndJoinTakeTheFreeLock : Obligations.SendAndJoinTakeTheFreeLock := by
  intro s k hready ha hfree
  refine ⟨fun t v frags => ?_, fun ssid pass => ?_⟩
  · rw [exec_send t v frags hready ha, stepAcquire_of_free hfree]
    rfl
  · rw [exec_joinAp ssid pass hready ha, stepAcquire_of_free hfree]
    rfl

/-- Settles O16: S0 with the lock held, at the issue and again while the caller waits; and S0 once it is free. -/
theorem sendAndJoinWaitForTheLock : Obligations.SendAndJoinWaitForTheLock := by
  intro s k ha
  refine ⟨?send, ?join, fun job hh hi hop => ⟨?waits, ?takes⟩⟩
  case send =>
    intro hready hheld t v frags
    rw [exec_send t v frags hready ha, stepAcquire_of_held hheld]
    rfl
  case join =>
    intro hready hheld ssid pass
    rw [exec_joinAp ssid pass hready ha, stepAcquire_of_held hheld]
    rfl
  case waits =>
    intro hheld
    rw [resumeAgent_tx hh hi ha hop, stepTx, stepAcquire_of_held hheld, setCallerOp_same hop]
  case takes =>
    intro hfree
    rw [resumeAgent_tx hh hi ha hop, stepTx, stepAcquire_of_free hfree]
    cases job <;> rfl

/-- Settles O21: J1, whose FAIL frees the lock and returns. -/
theorem joinPreparesTheFreshIntron : Obligations.JoinPreparesTheFreshIntron := by
  intro s k ssid pass hh hi ha hop
  rw [resumeAgent_tx hh hi ha hop, stepTx, stepPrepare_eq]
  rfl

/-- Settles O17: S1 with the type, the variable byte and the fragments of each job. -/
theorem sendBuildsItsChunks : Obligations.SendBuildsItsChunks := by
  intro s k hh hi ha
  refine ⟨fun t v frags hop => ?_, ?_⟩
  · rw [resumeAgent_tx hh hi ha hop, stepTx, stepBuild_eq]
    rfl
  · rintro ssid pass newI payload code hop hintron rfl rfl
    have hfrags : jobFrags s.tx.pendingIntron (.join ssid pass) = [clientConfigPayload newI ssid pass] := by
      rw [hintron]
      rfl
    have htotal : fragsTotal [clientConfigPayload newI ssid pass] = (clientConfigPayload newI ssid pass).length := by
      simp [fragsTotal]
    rw [resumeAgent_tx hh hi ha hop, stepTx, stepBuild_eq, jobChunks, hfrags, htotal]
    rfl

/-- Settles O18: S2 by the outstanding completion, then by the start answer. -/
theorem chunkStartFollowsTheHardwareAnswer : Obligations.ChunkStartFollowsTheHardwareAnswer := by
  intro s k job q hh hi ha hop hq
  rw [resumeAgent_tx hh hi ha hop, stepTx]
  refine ⟨fun hp => ?_, fun answer d hp hd => ?_⟩
  · rw [stepStart_of_pending hq hp]
    rfl
  · cases answer with
    | true => rw [stepStart_of_started hq hp hd, if_pos rfl]
    | false =>
      rw [stepStart_of_refused hq hp hd, if_neg Bool.false_ne_true]
      cases job <;> rfl

/-- Settles O19: S3 while the chunk is in flight, then by how the chunk ended and whether it was the last. -/
theorem sendResumesAfterCompletion : Obligations.SendResumesAfterCompletion := by
  intro s k job q hh hi ha hop hq
  rw [resumeAgent_tx hh hi ha hop, stepTx]
  congr 1
  by_cases hwaits : s.tx.pending = true ∨ q.status = .running
  · rw [if_pos hwaits, stepResume_of_waiting hq hwaits]
  obtain ⟨hp, hst⟩ : s.tx.pending = false ∧ q.status ≠ .running := by simpa using hwaits
  rw [if_neg hwaits]
  by_cases hfail : q.status = .fail
  · rw [if_pos hfail, stepResume_of_failed hq hp hfail]
  have hok : q.status = .ok := by cases hq' : q.status <;> simp_all
  rw [if_neg hfail]
  split
  next hlast => exact stepResume_of_last hq hp hok hlast
  next hmore => exact stepResume_of_more hq hp hok hmore

/-- Settles O20: TX_DONE with nothing in flight, and of the chunk in flight with either status. -/
theorem txDoneEndsTheChunk : Obligations.TxDoneEndsTheChunk := by
  intro s hready
  refine ⟨fun st hp => ?_, fun q ch hp hq hcur => ⟨?_, fun p d hd => ⟨?_, ?_⟩⟩⟩
  · rw [exec_txDone st hready, txDone_of_idle st hp]
    rfl
  · rw [exec_txDone .ok hready, txDone_ok hp hq, hcur, Option.getD_some]
  · have hle := drawSent_le ch.length s.env.draws
    rwa [hd] at hle
  · rw [exec_txDone .fail hready, txDone_fail (p := p) (d := d) hp hq (by rwa [hcur]), hcur, Option.getD_some]

/-- Settles O22: J3 with the intron pending. -/
theorem joinCommitsOnlyOnSuccess : Obligations.JoinCommitsOnlyOnSuccess := by
  intro s k ssid pass newI ok hh hi ha hop hintron
  rw [resumeAgent_tx hh hi ha hop, stepTx, stepFinish_eq k ok hintron]

end Sys2Proof.Machine
end

section
/-! A send run from S2 of its first chunk to its end with every chunk started and completed and no other agent between
(41_transmit R132 to R135): its states as one family, a step from each to the next, and the induction over the chunks. -/

namespace Sys2Proof.Machine

open Sys2Proof

/-! ### Scheduled steps -/

/-- What a caller has in progress, from the list it was set in. -/
theorem callerOp_of_set {s : State} {callers : List (Option CallerOp)} {k : Nat} {op : Option CallerOp}
    (hk : k < callers.length) (hset : s.tasks.callers = callers.set k op) : callerOp s k = op := by
  simp [callerOp, hset, hk]

/-- The decoder reads an operation by its identifier. -/
theorem decode_encode_op {i : Instr} (cfg : Config) (hop : i.format = .op) :
    decode cfg i.format (encode cfg i) = .ok (i, []) := by
  have hread := decodeOp_encode cfg [] hop
  rw [List.append_nil] at hread
  rw [hop]
  exact hread

section

variable {s : State} {k : Nat} {rest : List Input}

/-- The step of a scheduled operation. -/
theorem step_issue {i : Instr} {a : Agent} (hop : i.format = .op) (hh : s.halted = none)
    (hin : s.env.inputs = issue s.cfg a i :: rest) :
    step s = exec i (takeInput (issue s.cfg a i) rest s) :=
  step_of_decode_ok hh hin (decode_encode_op s.cfg hop)

/-- The step of a caller scheduled to go on with a SEND or JOIN_AP. -/
theorem step_goOn {job : TxJob} {stage : TxStage} (hh : s.halted = none) (hi : s.inited = true)
    (hop : callerOp s k = some (.tx job stage)) (hin : s.env.inputs = goOn (.caller k) :: rest) :
    step s = .next (stepTx k job stage (takeInput (goOn (.caller k)) rest s)) :=
  (step_of_resume hh hin).trans (resumeAgent_tx hh hi rfl hop)

/-- The step of a scheduled TX_DONE: TXHW may begin one at every step. -/
theorem step_txDone (st : DoneStatus) (hh : s.halted = none) (hi : s.inited = true)
    (hin : s.env.inputs = issue s.cfg .txhw (.txDone st) :: rest) :
    step s = .next (txDone st (takeInput (issue s.cfg .txhw (.txDone st)) rest s)) :=
  (step_issue rfl hh hin).trans (exec_txDone st ⟨hh, hi, rfl, rfl⟩)

/-- An idle caller of the configuration may begin an operation. -/
theorem ready_caller_takeInput {inp : Input} (ha : inp.agent = .caller k) (hh : s.halted = none)
    (hi : s.inited = true) (hk : k < s.cfg.nCallers) (hidle : callerOp s k = none) :
    Ready .caller (takeInput inp rest s) := by
  have hidle' : callerOp (takeInput inp rest s) k = none := hidle
  exact ⟨hh, hi, by simp [ha, agentAllowed, agentExists, hk], by simp [ha, agentBusy, hidle']⟩

/-! ### The states of a send in progress -/

/-- `CALLER(k)` stands at a stage of its job with the sequence `q`, and `sent` has gone to the wire since `s`. -/
def sendingAt (k : Nat) (job : TxJob) (stage : TxStage) (q : TxSeq) (pending : Bool) (sent : List Byte) (env : Env)
    (s : State) : State :=
  { s with
    tx.pending := pending, tx.seq := some q
    tasks.callers := s.tasks.callers.set k (some (.tx job stage))
    out.wireTx := s.out.wireTx ++ sent
    env := env }

/-- The send is over: nothing is in flight, and `sent` has gone to the wire since `s`. -/
def sentAll (sent : List Byte) (env : Env) (s : State) : State :=
  { s with tx.pending := false, tx.seq := none, out.wireTx := s.out.wireTx ++ sent, env := env }

/-- The stage at which a caller turns to chunk i: the delay of R133 stands before chunk 2 and every later one. -/
def stageBefore (i : Nat) : TxStage := if 2 ≤ i then .delay else .start

/-- The draws after one start answer, with these still to come. -/
def startTaken (starts : List Bool) (d : Draws) : Draws := { d with starts := starts, taken := d.taken + 1 }

/-- A start answer that the schedule supplies is drawn. -/
theorem drawStart_supplied {d : Draws} {b : Bool} {bs : List Bool} (h : d.starts = b :: bs) :
    drawStart d = (b, startTaken bs d) := by
  simp only [drawStart, h, startTaken]

section

variable {job : TxJob} {stage : TxStage} {q : TxSeq} {pending : Bool} {sent : List Byte} {env : Env}

/-- The caller of a send in progress stands at its stage. -/
theorem callerOp_sendingAt (hk : k < s.tasks.callers.length) :
    callerOp (sendingAt k job stage q pending sent env s) k = some (.tx job stage) :=
  callerOp_of_set hk rfl

variable (hh : s.halted = none) (hi : s.inited = true)

include hh hi

/-- The completion of the chunk in flight (R134). -/
theorem step_sendingAt_txDone {ch : List Byte} (hin : env.inputs = issue s.cfg .txhw (.txDone .ok) :: rest)
    (hcur : q.cur = some ch) :
    step (sendingAt k job .resume q true sent env s) =
      .next (sendingAt k job .resume { q with status := .ok } false (sent ++ ch)
        { env with inputs := rest, agent := .txhw } s) := by
  rw [step_txDone (s := sendingAt k job .resume q true sent env s) .ok hh hi hin, txDone_ok rfl rfl, hcur]
  simp [sendingAt, takeInput, issue]

variable (hk : k < s.tasks.callers.length) (hin : env.inputs = goOn (.caller k) :: rest)

include hk hin

/-- A labelled step of the caller of a send in progress. -/
theorem step_sendingAt :
    step (sendingAt k job stage q pending sent env s) =
      .next (stepTx k job stage (sendingAt k job stage q pending sent { env with inputs := rest, agent := .caller k } s)) :=
  step_goOn (s := sendingAt k job stage q pending sent env s) hh hi (callerOp_sendingAt hk) hin

/-- The delay before a chunk (R133). -/
theorem step_sendingAt_delay :
    step (sendingAt k job .delay q pending sent env s) =
      .next (sendingAt k job .start q pending sent { env with inputs := rest, agent := .caller k } s) := by
  rw [step_sendingAt hh hi hk hin]
  simp [stepTx, sendingAt, setCallerOp]

/-- The start of a chunk (R132). -/
theorem step_sendingAt_start {starts : List Bool} (hstarts : env.draws.starts = true :: starts) :
    step (sendingAt k job .start q false sent env s) =
      .next (sendingAt k job .resume { q with cur := some (q.chunks.getD q.k []), status := .running } true sent
        { inputs := rest, agent := .caller k, draws := startTaken starts env.draws } s) := by
  rw [step_sendingAt hh hi hk hin, stepTx, stepStart_of_started rfl rfl (drawStart_supplied hstarts)]
  simp [sendingAt]

/-- S3 after a completed chunk that is not the last (R133, R135). -/
theorem step_sendingAt_next (hok : q.status = .ok) (hmore : q.k + 1 ≠ q.chunks.length) :
    step (sendingAt k job .resume q false sent env s) =
      .next (sendingAt k job (stageBefore (q.k + 1)) { q with k := q.k + 1 } false sent
        { env with inputs := rest, agent := .caller k } s) := by
  rw [step_sendingAt hh hi hk hin, stepTx, stepResume_of_more rfl rfl hok hmore]
  simp [sendingAt, stageBefore]

/-- S3 after the last chunk (R135). -/
theorem step_sendingAt_last (hok : q.status = .ok) (hlast : q.k + 1 = q.chunks.length) :
    step (sendingAt k job .resume q false sent env s) =
      .next (sendEnded k job true (sentAll sent { env with inputs := rest, agent := .caller k } s)) := by
  rw [step_sendingAt hh hi hk hin, stepTx, stepResume_of_last rfl rfl hok hlast]
  cases job <;> simp [sendingAt, sentAll, sendEnded]

end

/-! ### The chunks, one after the other -/

/-- The sequence with chunk i transferred. -/
def transferred (chunks : List (List Byte)) (i : Nat) : TxSeq :=
  { chunks := chunks, k := i, cur := some (chunks.getD i []), status := .ok }

/-- The chunks from chunk i on, joined, begin with chunk i. -/
theorem flatten_drop {chunks : List (List Byte)} {i : Nat} (h : i < chunks.length) :
    (chunks.drop i).flatten = chunks.getD i [] ++ (chunks.drop (i + 1)).flatten := by
  rw [List.drop_eq_getElem_cons h, List.flatten_cons, List.getD_eq_getElem _ _ h]

/-- The script of a chunk is its transfer and S3. -/
theorem chunkScript_length (cfg : Config) (k i : Nat) :
    (chunkScript cfg k i).length = (chunkScript cfg k i).length - 1 + 1 := by
  simp [chunkScript]

section

variable {job : TxJob} {sent : List Byte} {chunks : List (List Byte)} {i : Nat} {cur : Option (List Byte)} {st : TxStatus}
  {d : Draws} {a : Agent} {starts : List Bool} (hh : s.halted = none) (hi : s.inited = true)
  (hk : k < s.tasks.callers.length)

include hh hi hk

/-- The transfer of a chunk: the delay where there is one, S2, TX_DONE. -/
theorem run_sendingAt_transfer (hstarts : d.starts = true :: starts) :
    Host.Core.run Sys2Proof.core ((chunkScript s.cfg k i).length - 1)
        (sendingAt k job (stageBefore i) { chunks := chunks, k := i, cur := cur, status := st } false sent
          { inputs := chunkScript s.cfg k i ++ rest, agent := a, draws := d } s) =
      .next (sendingAt k job .resume (transferred chunks i) false (sent ++ chunks.getD i [])
        { inputs := goOn (.caller k) :: rest, agent := .txhw, draws := startTaken starts d } s) := by
  have hstart : ∀ a', Host.Core.run Sys2Proof.core 2
      (sendingAt k job .start { chunks := chunks, k := i, cur := cur, status := st } false sent
        { inputs := [goOn (.caller k), issue s.cfg .txhw (.txDone .ok), goOn (.caller k)] ++ rest, agent := a'
          draws := d } s) =
      .next (sendingAt k job .resume (transferred chunks i) false (sent ++ chunks.getD i [])
        { inputs := goOn (.caller k) :: rest, agent := .txhw, draws := startTaken starts d } s) := fun _ =>
    (run_succ (step_sendingAt_start hh hi hk rfl hstarts)).trans (run_one (step_sendingAt_txDone hh hi rfl rfl))
  unfold stageBefore chunkScript
  split
  next => exact (run_succ (step_sendingAt_delay hh hi hk rfl)).trans (hstart _)
  next => exact hstart a

/-- A chunk that is not the last, to the stage before the next. -/
theorem run_sendingAt_next (hstarts : d.starts = true :: starts) (hmore : i + 1 ≠ chunks.length) :
    Host.Core.run Sys2Proof.core (chunkScript s.cfg k i).length
        (sendingAt k job (stageBefore i) { chunks := chunks, k := i, cur := cur, status := st } false sent
          { inputs := chunkScript s.cfg k i ++ rest, agent := a, draws := d } s) =
      .next (sendingAt k job (stageBefore (i + 1)) { transferred chunks i with k := i + 1 } false
        (sent ++ chunks.getD i []) { inputs := rest, agent := .caller k, draws := startTaken starts d } s) := by
  rw [chunkScript_length]
  exact (run_add (run_sendingAt_transfer hh hi hk hstarts)).trans (run_one (step_sendingAt_next hh hi hk rfl rfl hmore))

/-- The last chunk, to the end of the send. -/
theorem run_sendingAt_last (hstarts : d.starts = true :: starts) (hlast : i + 1 = chunks.length) :
    Host.Core.run Sys2Proof.core (chunkScript s.cfg k i).length
        (sendingAt k job (stageBefore i) { chunks := chunks, k := i, cur := cur, status := st } false sent
          { inputs := chunkScript s.cfg k i ++ rest, agent := a, draws := d } s) =
      .next (sendEnded k job true (sentAll (sent ++ chunks.getD i [])
        { inputs := rest, agent := .caller k, draws := startTaken starts d } s)) := by
  rw [chunkScript_length]
  exact (run_add (run_sendingAt_transfer hh hi hk hstarts)).trans (run_one (step_sendingAt_last hh hi hk rfl rfl hlast))

/-- The chunks from chunk i on, to the end of the send. -/
theorem run_sendingAt_from {r : Nat} (hr : i + (r + 1) = chunks.length)
    (hstarts : d.starts = List.replicate (r + 1) true ++ starts) :
    Host.Core.run Sys2Proof.core ((List.range' i (r + 1)).flatMap (chunkScript s.cfg k)).length
        (sendingAt k job (stageBefore i) { chunks := chunks, k := i, cur := cur, status := st } false sent
          { inputs := (List.range' i (r + 1)).flatMap (chunkScript s.cfg k) ++ rest, agent := a, draws := d } s) =
      .next (sendEnded k job true (sentAll (sent ++ (chunks.drop i).flatten)
        { inputs := rest, agent := .caller k
          draws := { d with starts := starts, taken := d.taken + (r + 1) } } s)) := by
  have hlt : i < chunks.length := by omega
  induction r generalizing i cur st sent d a with
  | zero =>
    rw [List.range'_one, List.flatMap_singleton, flatten_drop hlt, List.drop_eq_nil_of_le (Nat.le_of_eq hr.symm),
      List.flatten_nil, List.append_nil]
    exact run_sendingAt_last hh hi hk hstarts hr
  | succ r ih =>
    have htaken : d.taken + (r + 1 + 1) = d.taken + 1 + (r + 1) := by omega
    rw [List.range'_succ, List.flatMap_cons, List.length_append, List.append_assoc, flatten_drop hlt,
      ← List.append_assoc sent, run_add (run_sendingAt_next hh hi hk hstarts (by omega)), htaken]
    exact ih (i := i + 1) (d := startTaken _ d) (by omega) rfl (by omega)

/-- A send from S2 of its first chunk to its end. -/
theorem run_sendingAt (hne : chunks ≠ []) (hstarts : d.starts = List.replicate chunks.length true ++ starts) :
    Host.Core.run Sys2Proof.core (chunksScript s.cfg k chunks.length).length
        (sendingAt k job .start { chunks := chunks, k := 0, cur := cur, status := st } false sent
          { inputs := chunksScript s.cfg k chunks.length ++ rest, agent := a, draws := d } s) =
      .next (sendEnded k job true (sentAll (sent ++ chunks.flatten)
        { inputs := rest, agent := .caller k
          draws := { d with starts := starts, taken := d.taken + chunks.length } } s)) := by
  obtain ⟨r, hr⟩ := Nat.exists_eq_succ_of_ne_zero (mt List.length_eq_zero_iff.mp hne)
  rw [chunksScript, List.range_eq_range', hr]
  rw [hr] at hstarts
  exact run_sendingAt_from (i := 0) hh hi hk (by omega) hstarts

end

end

end Sys2Proof.Machine
end

section
/-! SEND and JOIN_AP alone on the block (41_transmit R130, R136): from the issue to S1, the chunks, and J3. -/

namespace Sys2Proof.Machine

open Sys2Proof

section

variable {s : State} {k : Nat} {rest : List Input}

/-! ### From the issue to the end of the chunks -/

/-- The lock's holder stands at S1 of its job, with the intron pending that its frame carries, if it does. -/
def atBuild (k : Nat) (job : TxJob) (intron : Option (List Byte)) (env : Env) (s : State) : State :=
  { s with
    tx.lock := some k, tx.pendingIntron := intron
    tasks.callers := s.tasks.callers.set k (some (.tx job .build))
    env := env }

section

variable (hh : s.halted = none) (hi : s.inited = true) (hk : k < s.cfg.nCallers) (hidle : callerOp s k = none)
  (hfree : s.tx.lock = none)

include hh hi hk hidle hfree

/-- The step of a scheduled SEND with the lock free (R130). -/
theorem step_send {t v : Byte} {frags : List (List Byte)}
    (hin : s.env.inputs = issue s.cfg (.caller k) (.send t v frags) :: rest) :
    step s = .next
      (atBuild k (.send t v frags) s.tx.pendingIntron { s.env with inputs := rest, agent := .caller k } s) := by
  obtain ⟨hsend, -⟩ := sendAndJoinTakeTheFreeLock (takeInput (issue s.cfg (.caller k) _) rest s) k
    (ready_caller_takeInput rfl hh hi hk hidle) rfl hfree
  exact (step_issue rfl hh hin).trans (hsend t v frags)

/-- The step of a scheduled JOIN_AP with the lock free (R136). -/
theorem step_joinAp {ssid pass : List Byte}
    (hin : s.env.inputs = issue s.cfg (.caller k) (.joinAp ssid pass) :: rest) :
    step s = .next { s with
      tx.lock := some k
      tasks.callers := s.tasks.callers.set k (some (.tx (.join ssid pass) .prepare))
      env.inputs := rest, env.agent := .caller k } := by
  obtain ⟨-, hjoin⟩ := sendAndJoinTakeTheFreeLock (takeInput (issue s.cfg (.caller k) _) rest s) k
    (ready_caller_takeInput rfl hh hi hk hidle) rfl hfree
  exact (step_issue rfl hh hin).trans (hjoin ssid pass)

end

/-- S1 remembers a job's query, if it is one (R131). -/
def queryTracked (job : TxJob) (s : State) : State :=
  { s with sess.lastQuery :=
      if jobType s.cfg job = s.cfg.typeCode.scanApGet then some (jobVar job) else s.sess.lastQuery }

/-- S1 of a job whose payload fits (R130). -/
theorem step_build {job : TxJob} (hh : s.halted = none) (hi : s.inited = true) (hpending : s.tx.pending = false)
    (hop : callerOp s k = some (.tx job .build)) (hfits : fragsTotal (jobFrags s.tx.pendingIntron job) ≤ 65535)
    (hin : s.env.inputs = goOn (.caller k) :: rest) :
    step s = .next (sendingAt k job .start { chunks := jobChunks job s, k := 0, cur := none, status := .running } false []
      { s.env with inputs := rest, agent := .caller k } (queryTracked job s)) := by
  rw [step_goOn hh hi hop hin, stepTx, stepBuild_eq, takeInput_tx, if_pos hfits, sendingAt, List.append_nil, ← hpending]
  rfl

/-- A send from S1 to its end: its chunks, joined, go to the wire (R130 to R135). -/
theorem run_build {job : TxJob} {m : Nat} {starts : List Bool} (hh : s.halted = none) (hi : s.inited = true)
    (hpending : s.tx.pending = false) (hop : callerOp s k = some (.tx job .build))
    (hfits : fragsTotal (jobFrags s.tx.pendingIntron job) ≤ 65535) (hm : m = (jobChunks job s).length)
    (hstarts : s.env.draws.starts = List.replicate m true ++ starts)
    (hin : s.env.inputs = goOn (.caller k) :: (chunksScript s.cfg k m ++ rest)) :
    Host.Core.run Sys2Proof.core ((chunksScript s.cfg k m).length + 1) s =
      .next (sendEnded k job true (sentAll (jobChunks job s).flatten
        { inputs := rest, agent := .caller k
          draws := { s.env.draws with starts := starts, taken := s.env.draws.taken + m } } (queryTracked job s))) := by
  subst hm
  rw [run_succ (step_build hh hi hpending hop hfits hin)]
  refine run_sendingAt (s := queryTracked job s) hh hi (callerOp_lt hop) ?_ hstarts
  simp [jobChunks, sendChunks]

end

/-- A job's chunks, joined, are the frame of its type, variable byte and fragments (40_codec R112). -/
theorem jobChunks_flatten (job : TxJob) (s : State) :
    (jobChunks job s).flatten =
      buildFrame s.cfg.crc s.sess.intron (jobType s.cfg job) (jobVar job) (jobFrags s.tx.pendingIntron job).flatten :=
  chunksJoinToTheBuiltFrame s.cfg s.sess.intron _ _ _

/-! ### JOIN_AP -/

/-- A JOIN_AP's type is not the query's, in a record that R7 admits. -/
theorem clientConfig_ne_scanApGet {cfg : Config} (hc : configOk cfg) :
    cfg.typeCode.clientConfig ≠ cfg.typeCode.scanApGet := by
  obtain ⟨-, hcodes, -⟩ := hc
  intro heq
  have hclient := typeOf_typeCodeOf hcodes .clientConfig
  rw [show typeCodeOf cfg.typeCode .clientConfig = typeCodeOf cfg.typeCode .scanApGet from heq,
    typeOf_typeCodeOf hcodes .scanApGet] at hclient
  cases hclient

/-- A JOIN_AP is no query (R131). -/
theorem queryTracked_join {s : State} (hc : configOk s.cfg) (ssid pass : List Byte) :
    queryTracked (.join ssid pass) s = s := by
  rw [queryTracked, jobType, if_neg (clientConfig_ne_scanApGet hc)]

/-- A JOIN_AP sends two chunks: the prelude and its payload, which is not empty (R137). -/
theorem jobChunks_join_length {s : State} {ssid pass newI : List Byte} (hintron : s.tx.pendingIntron = some newI) :
    (jobChunks (.join ssid pass) s).length = 2 := by
  simp [jobChunks, jobFrags, sendChunks, hintron, clientConfigPayload]

/-- The step J1 of a JOIN_AP whose credentials fit (R136). -/
theorem step_prepare {s : State} {k : Nat} {ssid pass newI : List Byte} {d : Draws} {rest : List Input}
    (hh : s.halted = none) (hi : s.inited = true) (hop : callerOp s k = some (.tx (.join ssid pass) .prepare))
    (hssid : ssid.length ≤ 255) (hpass : pass.length ≤ 255) (hd : drawIntron s.cfg s.env.draws = (newI, d))
    (hin : s.env.inputs = goOn (.caller k) :: rest) :
    step s = .next { s with
      tx.pendingIntron := some newI
      tasks.callers := s.tasks.callers.set k (some (.tx (.join ssid pass) .build))
      env := { inputs := rest, agent := .caller k, draws := d } } := by
  rw [step_goOn hh hi hop hin, stepTx, stepPrepare_eq, if_pos ⟨hssid, hpass⟩]
  simp [hd, goOn]

/-- S0 and J1 of a scheduled JOIN_AP with the lock free (R136). -/
theorem run_joinAp_prepare {s : State} {k : Nat} {ssid pass newI : List Byte} {d : Draws} {rest : List Input}
    (hh : s.halted = none) (hi : s.inited = true) (hk : k < s.cfg.nCallers) (hk' : k < s.tasks.callers.length)
    (hidle : callerOp s k = none) (hfree : s.tx.lock = none) (hssid : ssid.length ≤ 255) (hpass : pass.length ≤ 255)
    (hd : drawIntron s.cfg s.env.draws = (newI, d))
    (hin : s.env.inputs = issue s.cfg (.caller k) (.joinAp ssid pass) :: goOn (.caller k) :: rest) :
    Host.Core.run Sys2Proof.core 2 s =
      .next (atBuild k (.join ssid pass) (some newI) { inputs := rest, agent := .caller k, draws := d } s) := by
  refine Eq.trans (run_succ (step_joinAp hh hi hk hidle hfree hin)) ?_
  refine Eq.trans (run_one (step_prepare hh hi (callerOp_of_set hk' rfl) hssid hpass hd rfl)) ?_
  simp [atBuild]

/-- Settles O24: S0, J1, S1, the two chunks, and J3. -/
theorem successfulJoinInstallsTheIntron : Obligations.SuccessfulJoinInstallsTheIntron := by
  intro s k ssid pass newI d starts rest hh hi hk hk' hidle hfree hpending hc hssid hpass hfits hd hstarts hin
  have hlen : newI.length = s.cfg.intronLen := by
    obtain ⟨hlen, -⟩ := hc
    have := drawIntron_length s.cfg s.env.draws (by omega)
    rwa [hd] at this
  have hfits' : fragsTotal [clientConfigPayload newI ssid pass] ≤ 65535 := by
    simp [fragsTotal, clientConfigPayload]
    omega
  have hinputs : joinScript s.cfg k ssid pass ++ rest =
      issue s.cfg (.caller k) (.joinAp ssid pass) :: goOn (.caller k) :: goOn (.caller k) ::
        (chunksScript s.cfg k 2 ++ (goOn (.caller k) :: rest)) := by
    simp [joinScript]
  have hlength : (joinScript s.cfg k ssid pass).length = 2 + ((chunksScript s.cfg k 2).length + 1 + 1) := by
    simp [joinScript]
    omega
  have hprepare := run_joinAp_prepare hh hi hk hk' hidle hfree hssid hpass hd (hin.trans hinputs)
  have hbuild := run_build (rest := goOn (.caller k) :: rest) (s := atBuild k (.join ssid pass) (some newI)
      { inputs := goOn (.caller k) :: (chunksScript s.cfg k 2 ++ (goOn (.caller k) :: rest))
        agent := .caller k, draws := d } s)
    hh hi hpending (callerOp_of_set hk' rfl) hfits' (jobChunks_join_length rfl).symm hstarts rfl
  rw [jobChunks_flatten, queryTracked_join (by exact hc)] at hbuild
  rw [hlength, run_add hprepare]
  refine (run_add hbuild).trans ?_
  refine Eq.trans (run_one (step_goOn (stage := .finish true) hh hi
    (callerOp_of_set (by simpa [sentAll, atBuild] using hk') rfl) rfl)) ?_
  rw [stepTx, stepFinish_eq k true rfl]
  simp [sendEnded, sentAll, atBuild, jobType, jobVar, jobFrags, goOn]

end Sys2Proof.Machine
end

section
/-! What a step leaves of the writer lock's holder and of the wire (41_transmit R138, 20_memory R76): every operation but the
holder's own labelled steps and TX_DONE leaves the holder's send untouched, and TX_DONE alone writes the wire. -/

namespace Sys2Proof.Machine

open Sys2Proof

/-! ### What the other operations leave untouched -/

/-- What a send by `CALLER(k)` in progress is made of: the transmit registers, the caller's step, the intron its frame carries,
and what is on the wire. -/
structure SendUntouched (k : Nat) (s t : State) : Prop where
  cfg : t.cfg = s.cfg
  tx : t.tx = s.tx
  op : callerOp t k = callerOp s k
  intron : t.sess.intron = s.sess.intron
  wireTx : t.out.wireTx = s.out.wireTx

section

variable (k : Nat) (s : State)

theorem SendUntouched.refl : SendUntouched k s s := ⟨rfl, rfl, rfl, rfl, rfl⟩

/-- Reception leaves it untouched. -/
theorem SendUntouched.of_rxKeeps {k : Nat} {s t : State} (h : RxKeeps s t) : SendUntouched k s t :=
  ⟨h.cfg, h.tx, by simp only [callerOp, h.callers], h.intron, h.wireTx⟩

/-- The rest of a step that a fatal stop may have ended leaves it untouched, if it would have. -/
theorem SendUntouched.unlessHalted {k : Nat} {s u : State} {rest : State → State} (h : SendUntouched k s u)
    (hrest : SendUntouched k s (rest u)) : SendUntouched k s (unlessHalted rest u) := by
  unfold Machine.unlessHalted
  split
  · exact h
  · exact hrest

theorem SendUntouched.of_casMode (old new : Mode) : SendUntouched k s (casMode old new s) := by
  rw [casMode_eq]
  exact { SendUntouched.refl k s with }

theorem SendUntouched.of_modeCas (old new : Byte) : SendUntouched k s (modeCas old new s) := by
  unfold modeCas
  split
  · exact { SendUntouched.of_casMode k s _ _ with }
  · exact { SendUntouched.refl k s with }

theorem SendUntouched.of_feedStep : SendUntouched k s (feedStep s) := by
  unfold feedStep
  split
  · exact SendUntouched.refl k s
  next b bs _ =>
    have hbyte : SendUntouched k s (rxByte b s) := .of_rxKeeps (RxKeeps.of_rxByte b s)
    exact hbyte.unlessHalted { hbyte with }

theorem SendUntouched.of_pollBegin : SendUntouched k s (pollBegin s) := by
  unfold pollBegin
  split <;> exact { SendUntouched.refl k s with }

theorem SendUntouched.of_pollFeed (c : PollCtx) : SendUntouched k s (pollFeed c s) := by
  have hbyte : SendUntouched k s (rxByte (pollByteAt s c.j) s) := .of_rxKeeps (RxKeeps.of_rxByte _ s)
  exact hbyte.unlessHalted { hbyte with }

theorem SendUntouched.of_pollerStep : SendUntouched k s (pollerStep s) := by
  unfold pollerStep
  split
  · split
    · exact SendUntouched.of_pollFeed k s _
    · exact { SendUntouched.refl k s with }
  · exact SendUntouched.of_feedStep k s

/-- Another caller's point is no part of it. -/
theorem SendUntouched.of_setCallerOp {k j : Nat} (op : Option CallerOp) (h : k ≠ j) :
    SendUntouched k s (setCallerOp j op s) :=
  { SendUntouched.refl k s with op := callerOp_setCallerOp_other s op h }

/-- The first step of an instruction leaves the send untouched, unless it is one of the five: INIT and RESET, which wait for
the lock, SEND and JOIN_AP, which take it, and TX_DONE. -/
theorem firstStep_sendUntouched (i : Instr) :
    SendUntouched k s (firstStep i s) ∨ i = .init ∨ i = .reset ∨
      (agentColumn i = .caller ∧ ∃ job, firstStep i s = stepAcquire (callerIndex s) job s) ∨ ∃ st, i = .txDone st := by
  cases i with
  | init => exact .inr (.inl rfl)
  | reset => exact .inr (.inr (.inl rfl))
  | send | joinAp => exact .inr (.inr (.inr (.inl ⟨rfl, _, rfl⟩)))
  | txDone st => exact .inr (.inr (.inr (.inr ⟨st, rfl⟩)))
  | deviceInfo | clientConfig | packet | scanStart | scanStop | scanApGet | scanApCount | scanApInfo | invalid | rxFeed =>
    exact .inl { SendUntouched.of_feedStep k { s with tasks.feed := _ } with }
  | rxByte b => exact .inl (.of_rxKeeps (RxKeeps.of_rxByte b s))
  | poll => exact .inl (SendUntouched.of_pollBegin k s)
  | modeCas old new => exact .inl (SendUntouched.of_modeCas k s old new)
  | uartError =>
    left
    simp only [firstStep]
    split <;> exact { SendUntouched.refl k s with }
  | modeRead | linkUpRead | tickRead | macRead | apCountRead | apInfoTake | dmaWrite =>
    exact .inl { SendUntouched.refl k s with }

/-! ### The wire -/

theorem initNow_wireTx : (initNow s).out.wireTx = s.out.wireTx := by
  show (endSession s).out.wireTx = s.out.wireTx
  unfold endSession
  split
  · rw [releaseChain_eq, noteLinkDown_eq]
  · rfl

theorem resetNow_wireTx : (resetNow s).out.wireTx = s.out.wireTx := by
  unfold resetNow resetIntron resetParser
  rw [dropAssociation_eq, releaseChain_eq]
  split <;> rfl

theorem sendEnded_out (job : TxJob) (ok : Bool) : (sendEnded k job ok s).out = s.out := by
  cases job <;> rfl

theorem stepAcquire_out (job : TxJob) : (stepAcquire k job s).out = s.out := by
  unfold stepAcquire
  split <;> rfl

theorem stepPrepare_out (ssid pass : List Byte) : (stepPrepare k ssid pass s).out = s.out := by
  rw [stepPrepare_eq]
  split <;> rfl

theorem stepBuild_out (job : TxJob) : (stepBuild k job s).out = s.out := by
  rw [stepBuild_eq]
  split
  · rfl
  · exact sendEnded_out k s job false

theorem stepStart_out (job : TxJob) : (stepStart k job s).out = s.out := by
  unfold stepStart chunkAnswer
  split
  · rfl
  · split
    · rfl
    · split
      · rfl
      · rw [endSend_eq, sendEnded_out]

theorem stepResume_out (job : TxJob) : (stepResume k job s).out = s.out := by
  unfold stepResume
  split
  · rfl
  · split
    · rfl
    · split
      · rfl
      · rw [endSend_eq, sendEnded_out]
      · split
        · rw [endSend_eq, sendEnded_out]
        · rfl

theorem stepFinish_out (ok : Bool) : (stepFinish k ok s).out = s.out := by
  unfold stepFinish commitIntron
  rw [casMode_eq]
  split <;> rfl

/-- No labelled step of a caller writes an output stream. -/
theorem stepTx_out (job : TxJob) (stage : TxStage) : (stepTx k job stage s).out = s.out := by
  cases stage with
  | acquire => exact stepAcquire_out k s job
  | prepare =>
    cases job with
    | send t v frags => rfl
    | join ssid pass => exact stepPrepare_out k s ssid pass
  | build => exact stepBuild_out k s job
  | start => exact stepStart_out k s job
  | resume => exact stepResume_out k s job
  | delay => rfl
  | finish ok => exact stepFinish_out k s ok

theorem callerStep_wireTx (op : CallerOp) : (callerStep k op s).out.wireTx = s.out.wireTx := by
  cases op with
  | initWait =>
    simp only [callerStep]
    split
    · exact initNow_wireTx (setCallerOp k none s)
    · rfl
  | resetWait =>
    simp only [callerStep]
    split
    · exact resetNow_wireTx (setCallerOp k none s)
    · rfl
  | tx job stage => exact congrArg Outputs.wireTx (stepTx_out k s job stage)

/-- Of the instructions' first steps only TX_DONE writes the wire (R138). -/
theorem firstStep_wireTx {i : Instr} (hi : ∀ st, i ≠ .txDone st) : (firstStep i s).out.wireTx = s.out.wireTx := by
  obtain huntouched | rfl | rfl | ⟨-, job, heq⟩ | ⟨st, rfl⟩ := firstStep_sendUntouched 0 s i
  · exact huntouched.wireTx
  · simp only [firstStep]
    split
    · exact initNow_wireTx s
    · rfl
  · simp only [firstStep]
    split
    · exact resetNow_wireTx s
    · rfl
  · rw [heq, stepAcquire_out]
  · exact absurd rfl (hi st)

/-- TX_DONE with no transfer in flight writes nothing; else it appends a front part of the chunk, all of it on ok (R134). -/
theorem txDone_wireTx (st : DoneStatus) :
    (s.tx.pending = false ∧ (txDone st s).out.wireTx = s.out.wireTx) ∨
    (s.tx.pending = true ∧ ∃ p, (txDone st s).out.wireTx = s.out.wireTx ++ (chunkInFlight s).take p ∧
      (st = .ok → p = (chunkInFlight s).length)) := by
  cases hp : s.tx.pending with
  | false => exact .inl ⟨rfl, by rw [txDone_of_idle st hp, raiseFatal_out]⟩
  | true =>
    refine .inr ⟨rfl, ?_⟩
    unfold txDone
    rw [if_pos hp]
    cases st with
    | ok => exact ⟨_, by rw [List.take_length]; rfl, fun _ => rfl⟩
    | fail => exact ⟨_, rfl, by simp⟩

end

/-- Settles O25, by the three things a step can be: nothing, a continuation, an instruction's first step. -/
theorem onlyTxDoneWritesTheWire : Obligations.OnlyTxDoneWritesTheWire := by
  intro s t hstep
  obtain ⟨-, ⟨-, rfl⟩ | ⟨a, rest, -, hresume⟩ | ⟨a, fmt, bytes, rest, i, hin, hdecode, hexec⟩⟩ := step_next hstep
  · exact .inl rfl
  · obtain ⟨-, rfl | ⟨k, op, -, -, -, rfl⟩ | ⟨-, -, -, rfl⟩⟩ := resumeAgent_next hresume
    · exact .inl rfl
    · exact .inl (callerStep_wireTx k _ op)
    · exact .inl (SendUntouched.of_pollerStep 0 _).wireTx
  · obtain ⟨-, -, -, -, -, rfl⟩ := exec_next hexec
    by_cases hdone : ∃ st, i = .txDone st
    · obtain ⟨st, rfl⟩ := hdone
      obtain ⟨tail, hdecode⟩ : ∃ tail, decode s.cfg fmt bytes = .ok (.txDone st, tail) := by simpa using hdecode
      obtain ⟨-, hsame⟩ | ⟨hpending, p, hwire, hall⟩ := txDone_wireTx (takeInput _ rest s) st
      · exact .inl hsame
      · exact .inr ⟨a, fmt, bytes, tail, rest, st, p, hin, hdecode, hpending, hwire, hall⟩
    · exact .inl (firstStep_wireTx (takeInput _ rest s) (not_exists.mp hdone))

/-! ### A step while the lock is held -/

section

variable {s t : State} {k : Nat} {job : TxJob} {stage : TxStage}

/-- INIT waits while the lock is held (45_control R240). -/
theorem initEnabled_of_held (hi : s.inited = true) (hlock : s.tx.lock = some k) : initEnabled s = false := by
  simp [initEnabled, hi, hlock]

/-- So does RESET (R241). -/
theorem resetEnabled_of_held (hlock : s.tx.lock = some k) : resetEnabled s = false := by
  simp [resetEnabled, hlock]

/-- S0 of another caller waits. -/
theorem SendUntouched.of_stepAcquire {j : Nat} (hlock : s.tx.lock = some k) (hj : k ≠ j) (job : TxJob) :
    SendUntouched k s (stepAcquire j job s) := by
  rw [stepAcquire_of_held (by simp [hlock])]
  exact SendUntouched.of_setCallerOp s _ hj

variable (hop : callerOp s k = some (.tx job stage)) (hstage : stage ≠ .acquire)

include hop hstage

/-- A caller's continuation while `CALLER(k)` holds the lock: its own labelled step, or its send is untouched. -/
theorem callerStep_while_held (h : Inv s) (hi : s.inited = true) {j : Nat} {op : CallerOp} (hj : callerOp s j = some op) :
    SendUntouched k s (callerStep j op s) ∨ j = k ∧ callerStep j op s = stepTx k job stage s := by
  obtain ⟨-, -, -, -, htx, -⟩ := h
  have hlock := htx.lock_of_holder hop (holdsLock_tx.mpr hstage)
  by_cases hjk : j = k
  · subst hjk
    cases hop.symm.trans hj
    exact .inr ⟨rfl, rfl⟩
  · left
    cases op with
    | initWait =>
      simp only [callerStep, initEnabled_of_held hi hlock]
      exact SendUntouched.refl k s
    | resetWait =>
      simp only [callerStep, resetEnabled_of_held hlock]
      exact SendUntouched.refl k s
    | tx job' stage' =>
      obtain rfl : stage' = .acquire := by
        by_contra hne
        have hlock' := htx.lock_of_holder hj (holdsLock_tx.mpr hne)
        exact hjk (by simpa using hlock'.symm.trans hlock)
      exact SendUntouched.of_stepAcquire hlock (Ne.symm hjk) job'

/-- A continuation while `CALLER(k)` holds the lock. -/
theorem resumeAgent_while_held (h : Inv s) (hi : s.inited = true) (hresume : resumeAgent s = .next t) :
    SendUntouched k s t ∨ s.env.agent = .caller k ∧ t = stepTx k job stage s := by
  obtain ⟨-, rfl | ⟨j, op, ha, hj, -, rfl⟩ | ⟨-, -, -, rfl⟩⟩ := resumeAgent_next hresume
  · exact .inl (SendUntouched.refl k t)
  · obtain huntouched | ⟨rfl, heq⟩ := callerStep_while_held hop hstage h hi hj
    · exact .inl huntouched
    · exact .inr ⟨ha, heq⟩
  · exact .inl (SendUntouched.of_pollerStep k s)

/-- An instruction's first step while `CALLER(k)` holds the lock: TX_DONE, or the send is untouched. -/
theorem exec_while_held (h : Inv s) (hi : s.inited = true) {i : Instr} (hexec : exec i s = .next t) :
    SendUntouched k s t ∨ ∃ st, t = txDone st s := by
  obtain ⟨-, -, -, -, htx, -⟩ := h
  have hlock := htx.lock_of_holder hop (holdsLock_tx.mpr hstage)
  obtain ⟨-, -, hallowed, hidle, -, rfl⟩ := exec_next hexec
  have hother : agentColumn i = .caller → k ≠ callerIndex s := by
    rintro hcaller rfl
    rw [hcaller] at hallowed
    cases (caller_of_allowed hallowed hidle).2.symm.trans hop
  obtain huntouched | rfl | rfl | ⟨hcaller, job', heq⟩ | ⟨st, rfl⟩ := firstStep_sendUntouched k s i
  · exact .inl huntouched
  · left
    rw [firstStep, initEnabled_of_held hi hlock]
    exact SendUntouched.of_setCallerOp s _ (hother rfl)
  · left
    rw [firstStep, resetEnabled_of_held hlock]
    exact SendUntouched.of_setCallerOp s _ (hother rfl)
  · left
    rw [heq]
    exact SendUntouched.of_stepAcquire hlock (hother hcaller) job'
  · exact .inr ⟨st, rfl⟩

/-- A step while `CALLER(k)` holds the lock is the holder's labelled step or a TX_DONE, or it leaves the send untouched. -/
theorem step_while_held (h : Inv s) (hstep : step s = .next t) :
    SendUntouched k s t ∨
    (∃ rest, s.env.inputs = goOn (.caller k) :: rest ∧
      t = stepTx k job stage (takeInput (goOn (.caller k)) rest s)) ∨
    ∃ inp rest st, t = txDone st (takeInput inp rest s) := by
  have hi : s.inited = true := by
    obtain ⟨-, -, -, -, htx, hquiet⟩ := h
    by_contra hnot
    cases (htx.lock_of_holder hop (holdsLock_tx.mpr hstage)).symm.trans (hquiet (by simpa using hnot)).1
  obtain ⟨-, ⟨-, rfl⟩ | ⟨a, rest, hin, hresume⟩ | ⟨a, fmt, bytes, rest, i, -, -, hexec⟩⟩ := step_next hstep
  · exact .inl (SendUntouched.refl k t)
  · obtain huntouched | ⟨rfl, heq⟩ := resumeAgent_while_held (s := takeInput _ rest s) hop hstage h hi hresume
    · exact .inl { huntouched with }
    · exact .inr (.inl ⟨rest, hin, heq⟩)
  · obtain huntouched | ⟨st, heq⟩ := exec_while_held (s := takeInput _ rest s) hop hstage h hi hexec
    · exact .inl { huntouched with }
    · exact .inr (.inr ⟨_, rest, st, heq⟩)

end

/-! ### The holder's own steps -/

/-- `CALLER(k)` has returned from a SEND or JOIN_AP, and freed the lock (R130, R136). -/
def Returned (k : Nat) (ok : Bool) (s t : State) : Prop :=
  t.tx.lock = none ∧ t.tasks.returns = s.tasks.returns ++ [(.caller k, .sent ok)]

/-- A step of `CALLER(k)` that keeps the lock, or returns. -/
def KeepsLockOrReturns (k : Nat) (s t : State) : Prop := t.tx.lock = s.tx.lock ∨ ∃ ok, Returned k ok s t

section

variable {s u : State} {k : Nat} {job : TxJob}

theorem KeepsLockOrReturns.of_releaseLock (ok : Bool) (hreturns : u.tasks.returns = s.tasks.returns) :
    KeepsLockOrReturns k s (releaseLock k ok u) :=
  .inr ⟨ok, rfl, by rw [← hreturns]; rfl⟩

theorem KeepsLockOrReturns.of_sendEnded (ok : Bool) (hlock : u.tx.lock = s.tx.lock)
    (hreturns : u.tasks.returns = s.tasks.returns) : KeepsLockOrReturns k s (sendEnded k job ok u) := by
  cases job with
  | send t v frags => exact .of_releaseLock ok hreturns
  | join ssid pass => exact .inl hlock

theorem KeepsLockOrReturns.of_stepPrepare (ssid pass : List Byte) : KeepsLockOrReturns k s (stepPrepare k ssid pass s) := by
  rw [stepPrepare_eq]
  split
  · exact .inl rfl
  · exact .of_releaseLock false rfl

theorem KeepsLockOrReturns.of_stepBuild : KeepsLockOrReturns k s (stepBuild k job s) := by
  rw [stepBuild_eq]
  split
  · exact .inl rfl
  · exact .of_sendEnded false rfl rfl

theorem KeepsLockOrReturns.of_stepStart : KeepsLockOrReturns k s (stepStart k job s) := by
  unfold stepStart chunkAnswer
  simp only [endSend_eq]
  split
  · exact .inl rfl
  · split
    · exact .inl rfl
    · split
      · exact .inl rfl
      · exact .of_sendEnded false rfl rfl

theorem KeepsLockOrReturns.of_stepResume : KeepsLockOrReturns k s (stepResume k job s) := by
  unfold stepResume
  simp only [endSend_eq]
  split
  · exact .inl rfl
  · split
    · exact .inl rfl
    · split
      · exact .inl rfl
      · exact .of_sendEnded false rfl rfl
      · split
        · exact .of_sendEnded true rfl rfl
        · exact .inl rfl

theorem KeepsLockOrReturns.of_stepFinish (ok : Bool) : KeepsLockOrReturns k s (stepFinish k ok s) := by
  unfold stepFinish commitIntron
  rw [casMode_eq]
  split <;> exact .of_releaseLock ok rfl

/-- A labelled step behind S0 keeps the lock, or returns (R138). -/
theorem KeepsLockOrReturns.of_stepTx {stage : TxStage} (hstage : stage ≠ .acquire) :
    KeepsLockOrReturns k s (stepTx k job stage s) := by
  cases stage with
  | acquire => exact absurd rfl hstage
  | prepare =>
    cases job with
    | send t v frags => exact .inl rfl
    | join ssid pass => exact .of_stepPrepare ssid pass
  | build => exact .of_stepBuild
  | start => exact .of_stepStart
  | resume => exact .of_stepResume
  | delay => exact .inl rfl
  | finish ok => exact .of_stepFinish ok

/-- TX_DONE leaves the lock alone. -/
theorem txDone_lock (st : DoneStatus) (s : State) : (txDone st s).tx.lock = s.tx.lock := by
  unfold txDone
  split
  · cases st <;> rfl
  · rfl

/-- The caller that the lock names stands behind S0 of a SEND or JOIN_AP (R43). -/
theorem txOk.holder_of_lock (h : txOk s) (hlock : s.tx.lock = some k) :
    ∃ job stage, callerOp s k = some (.tx job stage) ∧ stage ≠ .acquire := by
  obtain ⟨-, hlt, hone, -⟩ := h
  have hholds : (callerOp s k).any holdsLock = true := (hone k (hlt k hlock)).mpr hlock
  cases hop : callerOp s k with
  | none => simp [hop] at hholds
  | some op =>
    cases op with
    | initWait | resetWait => simp [hop, holdsLock] at hholds
    | tx job stage => exact ⟨job, stage, rfl, holdsLock_tx.mp (by simpa [hop] using hholds)⟩

end

/-- Settles O26: nobody but the holder moves the lock, and the holder's steps keep it or return. -/
theorem lockLeavesItsHolderOnlyByReturn : Obligations.LockLeavesItsHolderOnlyByReturn := by
  intro s t k h hlock hstep hne
  have ⟨_, _, _, _, htx, _⟩ := h
  obtain ⟨job, stage, hop, hstage⟩ := htx.holder_of_lock hlock
  obtain huntouched | ⟨rest, hin, rfl⟩ | ⟨inp, rest, st, rfl⟩ := step_while_held hop hstage h hstep
  · exact absurd (huntouched.tx ▸ hlock) hne
  · obtain hsame | ⟨ok, hfree, hreturns⟩ := KeepsLockOrReturns.of_stepTx (k := k) (job := job)
      (s := takeInput (goOn (.caller k)) rest s) hstage
    · exact absurd (hsame.trans hlock) hne
    · exact ⟨hfree, ⟨rest, hin⟩, ok, hreturns⟩
  · exact absurd ((txDone_lock st (takeInput inp rest s)).trans hlock) hne

end Sys2Proof.Machine
end

section
/-! A send under any interleaving (41_transmit R138, R139): what is on the wire at each stage of it, and how it ends. -/

namespace Sys2Proof.Machine

open Sys2Proof

/-! ### The chunks on the wire -/

/-- The chunks of a sequence before the one it stands at, and the first p bytes of that one. -/
def sentPart (q : TxSeq) (p : Nat) : List Byte := (q.chunks.take q.k).flatten ++ (q.chunks.getD q.k []).take p

/-- They are a front part of all the chunks. -/
theorem sentPart_prefix (q : TxSeq) (p : Nat) : sentPart q p <+: q.chunks.flatten := by
  have hsplit : q.chunks.flatten = (q.chunks.take q.k).flatten ++ (q.chunks.drop q.k).flatten := by
    rw [← List.flatten_append, List.take_append_drop]
  rw [hsplit, sentPart, List.prefix_append_right_inj]
  by_cases h : q.k < q.chunks.length
  · rw [flatten_drop h]
    exact (List.take_prefix p _).trans (List.prefix_append _ _)
  · simp [List.getElem?_eq_none (Nat.le_of_not_lt h)]

/-- With the chunk's last byte, they are the chunks up to it. -/
theorem sentPart_whole {q : TxSeq} (h : q.k < q.chunks.length) :
    sentPart q (q.chunks.getD q.k []).length = (q.chunks.take (q.k + 1)).flatten := by
  rw [sentPart, List.take_length, List.take_succ_eq_append_getElem h, List.flatten_append, List.flatten_singleton,
    List.getD_eq_getElem _ _ h]

/-- Without a byte of the chunk, they are the chunks before it. -/
theorem sentPart_zero (q : TxSeq) : sentPart q 0 = (q.chunks.take q.k).flatten := by
  simp [sentPart]

/-- The chunks that S1 makes read the configuration, the intron and the intron pending alone. -/
theorem jobChunks_congr {s t : State} (job : TxJob) (hcfg : t.cfg = s.cfg) (hintron : t.sess.intron = s.sess.intron)
    (hpending : t.tx.pendingIntron = s.tx.pendingIntron) : jobChunks job t = jobChunks job s := by
  unfold jobChunks
  rw [hcfg, hintron, hpending]

/-! ### The stages of a send -/

/-- Since `CALLER(k)` stood at S1 in `s`, the chunks of the sequence `q` before its chunk `q.k` and the first p bytes of that
one have gone to the wire. -/
structure OnWire (s : State) (job : TxJob) (x : State) (q : TxSeq) (p : Nat) : Prop where
  seq : x.tx.seq = some q
  chunks : q.chunks = jobChunks job s
  part : p ≤ (q.chunks.getD q.k []).length
  wire : x.out.wireTx = s.out.wireTx ++ sentPart q p

/-- How a send that stood at S1 in `s` ends within n steps, and what is on the wire then (R130, R139). -/
inductive Ended (s : State) (k : Nat) (job : TxJob) (n : Nat) : Bool → List Byte → Prop where
  /-- OK: all chunks. -/
  | whole : Ended s k job n true (s.out.wireTx ++ (jobChunks job s).flatten)
  /-- FAIL at S1: nothing. -/
  | tooLong (size : 65535 < fragsTotal (jobFrags s.tx.pendingIntron job)) : Ended s k job n false s.out.wireTx
  /-- FAIL at chunk `q.k`: the chunks before it, and its first p bytes. -/
  | atChunk (m : Nat) (x : State) (q : TxSeq) (p : Nat) (within : m ≤ n)
      (run : Host.Core.run Sys2Proof.core m s = .next x) (fails : failsAtChunk k job (jobChunks job s) q p x) :
      Ended s k job n false (s.out.wireTx ++ sentPart q p)

/-- What is on the wire n steps after `s`, by the stage of the send (R130, R132, R134, R135). -/
inductive Underway (s : State) (k : Nat) (job : TxJob) (n : Nat) (x : State) : TxStage → Prop where
  | build (same : SendUntouched k s x) : Underway s k job n x .build
  | start (q : TxSeq) (wire : OnWire s job x q 0) : Underway s k job n x .start
  | delay (q : TxSeq) (wire : OnWire s job x q 0) : Underway s k job n x .delay
  | resume (q : TxSeq) (p : Nat) (wire : OnWire s job x q p) (running : q.status = .running → p = 0)
      (ok : q.status = .ok → p = (q.chunks.getD q.k []).length) : Underway s k job n x .resume
  | finish (ok : Bool) (ended : Ended s k job n ok x.out.wireTx) : Underway s k job n x (.finish ok)

/-- `CALLER(k)` is in the send that stood at S1 in `s`, n steps later. -/
def InSend (s : State) (k : Nat) (job : TxJob) (n : Nat) (x : State) : Prop :=
  ∃ stage, callerOp x k = some (.tx job stage) ∧ Underway s k job n x stage

/-- `CALLER(k)` is still in the send after the step from `x` to `y`, or has returned from it. -/
def InSendOrReturned (s : State) (k : Nat) (job : TxJob) (n : Nat) (x y : State) : Prop :=
  InSend s k job (n + 1) y ∨ ∃ ok, Returned k ok x y ∧ Ended s k job n ok y.out.wireTx

section

variable {s x y : State} {k n : Nat} {job : TxJob} {stage : TxStage}

/-! ### What a front part of the message is on the wire -/

theorem OnWire.grown {q : TxSeq} {p : Nat} (h : OnWire s job x q p) :
    ∃ sent, sent <+: (jobChunks job s).flatten ∧ x.out.wireTx = s.out.wireTx ++ sent :=
  ⟨sentPart q p, h.chunks ▸ sentPart_prefix q p, h.wire⟩

theorem Ended.grown {ok : Bool} {wire : List Byte} (h : Ended s k job n ok wire) :
    ∃ sent, sent <+: (jobChunks job s).flatten ∧ wire = s.out.wireTx ++ sent := by
  cases h with
  | whole => exact ⟨_, List.prefix_refl _, rfl⟩
  | tooLong size => exact ⟨[], List.nil_prefix, (List.append_nil _).symm⟩
  | atChunk m x q p within run fails =>
    obtain ⟨-, hchunks, -⟩ := fails
    exact ⟨sentPart q p, hchunks ▸ sentPart_prefix q p, rfl⟩

/-- What is on the wire, by the result (R139). -/
theorem Ended.report {ok : Bool} {wire : List Byte} (h : Ended s k job n ok wire) :
    (ok = true → wire = s.out.wireTx ++ (jobChunks job s).flatten) ∧
    (ok = false →
      65535 < fragsTotal (jobFrags s.tx.pendingIntron job) ∧ wire = s.out.wireTx ∨
      ∃ (m : Nat) (x : State) (q : TxSeq) (p : Nat), m ≤ n ∧ Host.Core.run Sys2Proof.core m s = .next x ∧
        failsAtChunk k job (jobChunks job s) q p x ∧
        wire = s.out.wireTx ++ (q.chunks.take q.k).flatten ++ (q.chunks.getD q.k []).take p) := by
  cases h with
  | whole => exact ⟨fun _ => rfl, fun hfail => by cases hfail⟩
  | tooLong size => exact ⟨fun hok => (by cases hok), fun _ => .inl ⟨size, rfl⟩⟩
  | atChunk m x q p within run fails =>
    exact ⟨fun hok => (by cases hok), fun _ => .inr ⟨m, x, q, p, within, run, fails, (List.append_assoc _ _ _).symm⟩⟩

/-- At every stage the wire has grown by a front part of the message (R138). -/
theorem Underway.grown (h : Underway s k job n x stage) :
    ∃ sent, sent <+: (jobChunks job s).flatten ∧ x.out.wireTx = s.out.wireTx ++ sent := by
  cases h with
  | build same => exact ⟨[], List.nil_prefix, by rw [same.wireTx, List.append_nil]⟩
  | start q wire | delay q wire | resume q p wire => exact wire.grown
  | finish ok ended => exact ended.grown

/-- A send underway stands behind S0. -/
theorem Underway.ne_acquire (h : Underway s k job n x stage) : stage ≠ .acquire := by
  rintro rfl
  cases h

/-! ### Later, and with the send untouched -/

theorem Ended.later {ok : Bool} {wire : List Byte} (h : Ended s k job n ok wire) : Ended s k job (n + 1) ok wire := by
  cases h with
  | whole => exact .whole
  | tooLong size => exact .tooLong size
  | atChunk m x q p within run fails => exact .atChunk m x q p (Nat.le_succ_of_le within) run fails

theorem SendUntouched.trans (h : SendUntouched k s x) (g : SendUntouched k x y) : SendUntouched k s y :=
  ⟨g.cfg.trans h.cfg, g.tx.trans h.tx, g.op.trans h.op, g.intron.trans h.intron, g.wireTx.trans h.wireTx⟩

theorem OnWire.untouched {q : TxSeq} {p : Nat} (h : OnWire s job x q p) (g : SendUntouched k x y) : OnWire s job y q p :=
  { h with seq := g.tx ▸ h.seq, wire := g.wireTx.trans h.wire }

/-- Steps that leave the send untouched leave it underway. -/
theorem Underway.untouched (h : Underway s k job n x stage) (g : SendUntouched k x y) :
    Underway s k job (n + 1) y stage := by
  cases h with
  | build same => exact .build (same.trans g)
  | start q wire => exact .start q (wire.untouched g)
  | delay q wire => exact .delay q (wire.untouched g)
  | resume q p wire running ok => exact .resume q p (wire.untouched g) running ok
  | finish ok ended => exact .finish ok (g.wireTx ▸ ended.later)

end

end Sys2Proof.Machine
end

section
/-! Every step of every agent, from S1 of a send to the step that frees the lock, keeps the send underway or returns from it
(41_transmit R138, R139). -/

namespace Sys2Proof.Machine

open Sys2Proof

section

variable {s x y : State} {k n : Nat} {job : TxJob} {stage : TxStage}

/-! ### The end of a send -/

/-- A send that ends is at J3, or has returned (R130, R136). -/
theorem inSendOrReturned_of_sendEnded {u : State} {ok : Bool} (hk : k < u.tasks.callers.length)
    (hreturns : u.tasks.returns = x.tasks.returns) (h : Ended s k job n ok u.out.wireTx) :
    InSendOrReturned s k job n x (sendEnded k job ok u) := by
  cases job with
  | send t v frags => exact .inr ⟨ok, ⟨rfl, by rw [← hreturns]; rfl⟩, h⟩
  | join ssid pass => exact .inl ⟨.finish ok, callerOp_of_set hk rfl, .finish ok h.later⟩

/-- The end of a send leaves TXSEQ as it is. -/
theorem sendEnded_seq (k : Nat) (job : TxJob) (ok : Bool) (s : State) : (sendEnded k job ok s).tx.seq = s.tx.seq := by
  cases job <;> rfl

/-! ### The labelled steps, each begun by taking the schedule's next element -/

variable {inp : Input} {rest : List Input}

theorem SendUntouched.of_takeInput : SendUntouched k x (takeInput inp rest x) := ⟨rfl, rfl, rfl, rfl, rfl⟩

/-- S1 (R130). -/
theorem inSendOrReturned_of_stepBuild (hop : callerOp x k = some (.tx job .build)) (h : SendUntouched k s x) :
    InSendOrReturned s k job n x (stepBuild k job (takeInput inp rest x)) := by
  have hk := callerOp_lt hop
  rw [stepBuild_eq]
  split
  next =>
    refine .inl ⟨.start, callerOp_of_set hk rfl, .start _ ⟨rfl, ?_, Nat.zero_le _, ?_⟩⟩
    · exact jobChunks_congr job h.cfg h.intron (congrArg Tx.pendingIntron h.tx)
    · simpa [sentPart] using h.wireTx
  next hlong =>
    refine inSendOrReturned_of_sendEnded hk rfl ?_
    rw [takeInput_out, h.wireTx]
    exact .tooLong (by rw [← h.tx]; exact Nat.lt_of_not_le hlong)

/-- The delay before a chunk (R133). -/
theorem inSendOrReturned_of_delay {q : TxSeq} (hop : callerOp x k = some (.tx job .delay)) (h : OnWire s job x q 0) :
    InSendOrReturned s k job n x (setCallerOp k (some (.tx job .start)) (takeInput inp rest x)) :=
  .inl ⟨.start, callerOp_of_set (callerOp_lt hop) rfl, .start q { h with }⟩

/-- S2 (R132). -/
theorem inSendOrReturned_of_stepStart {q : TxSeq} (hop : callerOp x k = some (.tx job .start)) (htx : txOk x)
    (h : OnWire s job x q 0) (hrun : Host.Core.run Sys2Proof.core n s = .next x)
    (hstep : step x = .next (stepStart k job (takeInput inp rest x))) :
    InSendOrReturned s k job n x (stepStart k job (takeInput inp rest x)) := by
  obtain ⟨⟨q', hq', hlt, -⟩, hflight, -⟩ := (regsOk_sending rfl).mp (htx.regs hop (by simp))
  obtain rfl : q' = q := Option.some.inj (hq'.symm.trans h.seq)
  have hidle : x.tx.pending = false := by
    by_contra hp
    cases hflight (by simpa using hp)
  cases hd : drawStart x.env.draws with
  | mk answer d =>
    cases answer with
    | true =>
      rw [stepStart_of_started (s := takeInput inp rest x) h.seq hidle hd]
      exact .inl ⟨.resume, callerOp_of_set (callerOp_lt hop) rfl,
        .resume _ 0 { h with seq := rfl } (fun _ => rfl) (fun hok => by cases hok)⟩
    | false =>
      rw [stepStart_of_refused (s := takeInput inp rest x) h.seq hidle hd] at hstep ⊢
      refine inSendOrReturned_of_sendEnded (callerOp_lt hop) rfl ?_
      rw [takeInput_out, h.wire]
      exact .atChunk n x q' 0 (Nat.le_refl n) hrun
        ⟨h.seq, h.chunks, h.chunks ▸ hlt, Nat.zero_le _, .inl ⟨hop, rfl⟩, _, hstep, sendEnded_seq k job false _⟩

/-- S3 (R130, R135). -/
theorem inSendOrReturned_of_stepResume {q : TxSeq} {p : Nat} (hop : callerOp x k = some (.tx job .resume)) (htx : txOk x)
    (h : OnWire s job x q p) (hrunning : q.status = .running → p = 0)
    (hok : q.status = .ok → p = (q.chunks.getD q.k []).length) (hrun : Host.Core.run Sys2Proof.core n s = .next x)
    (hstep : step x = .next (stepResume k job (takeInput inp rest x))) :
    InSendOrReturned s k job n x (stepResume k job (takeInput inp rest x)) := by
  have hk := callerOp_lt hop
  obtain ⟨⟨q', hq', hlt, -⟩, -⟩ := (regsOk_sending rfl).mp (htx.regs hop (by simp))
  obtain rfl : q' = q := Option.some.inj (hq'.symm.trans h.seq)
  by_cases hwaits : x.tx.pending = true ∨ q'.status = .running
  · rw [stepResume_of_waiting (s := takeInput inp rest x) h.seq hwaits]
    exact .inl ⟨.resume, hop, (Underway.resume q' p h hrunning hok).untouched .of_takeInput⟩
  obtain ⟨hp, hnot⟩ : x.tx.pending = false ∧ q'.status ≠ .running := by simpa using hwaits
  cases hst : q'.status with
  | running => exact absurd hst hnot
  | fail =>
    rw [stepResume_of_failed (s := takeInput inp rest x) h.seq hp hst] at hstep ⊢
    refine inSendOrReturned_of_sendEnded hk rfl ?_
    rw [takeInput_out, h.wire]
    exact .atChunk n x q' p (Nat.le_refl n) hrun
      ⟨h.seq, h.chunks, h.chunks ▸ hlt, h.chunks ▸ h.part, .inr ⟨hop, hst⟩, _, hstep, sendEnded_seq k job false _⟩
  | ok =>
    have hwire : x.out.wireTx = s.out.wireTx ++ (q'.chunks.take (q'.k + 1)).flatten := by
      rw [h.wire, hok hst, sentPart_whole hlt]
    by_cases hlast : q'.k + 1 = q'.chunks.length
    · rw [stepResume_of_last (s := takeInput inp rest x) h.seq hp hst hlast]
      refine inSendOrReturned_of_sendEnded hk rfl ?_
      rw [takeInput_out, hwire, hlast, List.take_length, h.chunks]
      exact .whole
    · rw [stepResume_of_more (s := takeInput inp rest x) h.seq hp hst hlast]
      have hnext : x.out.wireTx = s.out.wireTx ++ sentPart { q' with k := q'.k + 1 } 0 := by rw [sentPart_zero, hwire]
      refine .inl ⟨_, callerOp_of_set hk rfl, ?_⟩
      split
      · exact .delay _ ⟨rfl, h.chunks, Nat.zero_le _, hnext⟩
      · exact .start _ ⟨rfl, h.chunks, Nat.zero_le _, hnext⟩

/-- J3 (R136). -/
theorem inSendOrReturned_of_stepFinish {ok : Bool} (h : Ended s k job n ok x.out.wireTx) :
    InSendOrReturned s k job n x (stepFinish k ok (takeInput inp rest x)) := by
  refine .inr ⟨ok, ⟨rfl, ?_⟩, ?_⟩
  · unfold stepFinish commitIntron
    rw [casMode_eq]
    split <;> rfl
  · rw [stepFinish_out]
    exact h

/-- A labelled step of the holder's, at every stage from S1 on. -/
theorem inSendOrReturned_of_stepTx (hop : callerOp x k = some (.tx job stage)) (htx : txOk x)
    (h : Underway s k job n x stage) (hrun : Host.Core.run Sys2Proof.core n s = .next x)
    (hstep : step x = .next (stepTx k job stage (takeInput inp rest x))) :
    InSendOrReturned s k job n x (stepTx k job stage (takeInput inp rest x)) := by
  cases h with
  | build same => exact inSendOrReturned_of_stepBuild hop same
  | start q wire => exact inSendOrReturned_of_stepStart hop htx wire hrun hstep
  | delay q wire => exact inSendOrReturned_of_delay hop wire
  | resume q p wire running ok => exact inSendOrReturned_of_stepResume hop htx wire running ok hrun hstep
  | finish ok ended => exact inSendOrReturned_of_stepFinish ended

/-! ### TX_DONE -/

/-- A completion while the send is underway: its chunk, or a front part of it, goes to the wire (R134). -/
theorem inSend_of_txDone (st : DoneStatus) (hop : callerOp x k = some (.tx job stage)) (htx : txOk x)
    (h : Underway s k job n x stage) : InSend s k job (n + 1) (txDone st (takeInput inp rest x)) := by
  have hregs := htx.regs hop h.ne_acquire
  cases hp : x.tx.pending with
  | false =>
    rw [txDone_of_idle (s := takeInput inp rest x) st hp]
    exact ⟨stage, hop, h.untouched ⟨rfl, rfl, rfl, rfl, rfl⟩⟩
  | true =>
    obtain rfl : stage = .resume := by
      obtain ⟨-, hflight, -⟩ := hregs
      simpa using hflight hp
    obtain ⟨⟨q', hq', hlt, hcur⟩, -⟩ := (regsOk_sending rfl).mp hregs
    obtain ⟨hcur, hrun⟩ := hcur rfl
    have hchunk : q'.cur.getD [] = q'.chunks.getD q'.k [] := by rw [hcur, List.getD_eq_getElem?_getD]
    cases h with
    | resume q p wire running ok =>
      obtain rfl : q' = q := Option.some.inj (hq'.symm.trans wire.seq)
      have hwire : x.out.wireTx = s.out.wireTx ++ (q'.chunks.take q'.k).flatten := by
        rw [wire.wire, running (hrun.mp hp), sentPart_zero]
      cases st with
      | ok =>
        rw [txDone_ok (s := takeInput inp rest x) hp hq', hchunk]
        refine ⟨.resume, hop, .resume _ (q'.chunks.getD q'.k []).length ⟨rfl, wire.chunks, Nat.le_refl _, ?_⟩ ?_ ?_⟩
        · simp [sentPart, hwire]
        · rintro ⟨⟩
        · exact fun _ => rfl
      | fail =>
        cases hd : drawSent (q'.chunks.getD q'.k []).length x.env.draws with
        | mk sent d =>
          have hle : sent ≤ (q'.chunks.getD q'.k []).length := by
            have hle := drawSent_le (q'.chunks.getD q'.k []).length x.env.draws
            rwa [hd] at hle
          rw [txDone_fail (s := takeInput inp rest x) hp hq' (hchunk ▸ hd), hchunk]
          refine ⟨.resume, hop, .resume _ sent ⟨rfl, wire.chunks, hle, ?_⟩ ?_ ?_⟩
          · simp [sentPart, hwire]
          · rintro ⟨⟩
          · rintro ⟨⟩

/-! ### Every step -/

/-- A step of any agent while the send is underway (R138). -/
theorem inSendOrReturned_of_step (hop : callerOp x k = some (.tx job stage)) (hinv : Inv x)
    (h : Underway s k job n x stage) (hrun : Host.Core.run Sys2Proof.core n s = .next x) (hstep : step x = .next y) :
    InSendOrReturned s k job n x y := by
  have ⟨_, _, _, _, htx, _⟩ := hinv
  obtain huntouched | ⟨rest, -, rfl⟩ | ⟨inp, rest, st, rfl⟩ := step_while_held hop h.ne_acquire hinv hstep
  · exact .inl ⟨stage, huntouched.op.trans hop, h.untouched huntouched⟩
  · exact inSendOrReturned_of_stepTx hop htx h hrun hstep
  · exact .inl (inSend_of_txDone st hop htx h)

end

/-- The first step of a run. -/
theorem run_succ_first {n : Nat} {s u : State} (h : Host.Core.run Sys2Proof.core (n + 1) s = .next u) :
    ∃ t, step s = .next t ∧ Host.Core.run Sys2Proof.core n t = .next u := by
  simp only [Host.Core.run] at h
  split at h
  next t hstep => exact ⟨t, hstep, h⟩
  all_goals cases h

/-- The last step of a run. -/
theorem run_succ_last {n : Nat} {s u : State} (h : Host.Core.run Sys2Proof.core (n + 1) s = .next u) :
    ∃ x, Host.Core.run Sys2Proof.core n s = .next x ∧ step x = .next u := by
  induction n generalizing s with
  | zero =>
    obtain ⟨t, hstep, hrun⟩ := run_succ_first h
    cases hrun
    exact ⟨s, rfl, hstep⟩
  | succ n ih =>
    obtain ⟨t, hstep, hrun⟩ := run_succ_first h
    obtain ⟨x, hrun', hlast⟩ := ih hrun
    exact ⟨x, (run_succ hstep).trans hrun', hlast⟩

/-- As long as `CALLER(k)` holds the lock it is in its send, and the invariant holds. -/
theorem inSend_of_run {s u : State} {k n : Nat} {job : TxJob} (hinv : Inv s) (hop : callerOp s k = some (.tx job .build))
    (hrun : Host.Core.run Sys2Proof.core n s = .next u)
    (hheld : ∀ (m : Nat) (x : State), m ≤ n → Host.Core.run Sys2Proof.core m s = .next x → x.tx.lock = some k) :
    Inv u ∧ InSend s k job n u := by
  induction n generalizing u with
  | zero =>
    cases hrun
    exact ⟨hinv, .build, hop, .build (SendUntouched.refl k s)⟩
  | succ n ih =>
    obtain ⟨x, hrun', hstep⟩ := run_succ_last hrun
    obtain ⟨hinv', stage, hop', hunder⟩ := ih hrun' fun m y hm => hheld m y (Nat.le_succ_of_le hm)
    refine ⟨stepKeepsInvariant x u hinv' hstep, ?_⟩
    obtain hin | ⟨ok, ⟨hfree, -⟩, -⟩ := inSendOrReturned_of_step hop' hinv' hunder hrun' hstep
    · exact hin
    · cases hfree.symm.trans (hheld (n + 1) u (Nat.le_refl _) hrun)

/-- Settles O23: a SEND alone is its run, step by step; under any interleaving every step before the return keeps the send
underway, and the return reports how it ended. -/
theorem successfulSendPutsTheFrameOnTheWire : Obligations.SuccessfulSendPutsTheFrameOnTheWire := by
  refine ⟨?alone, ?interleaved⟩
  case alone =>
    rintro s k m t v frags starts rest hh hi hk hk' hidle hfree hpending hfits rfl hstarts hin
    have hlength : (sendScript s.cfg k t v frags (sendChunks s.cfg s.sess.intron t v frags).length).length =
        (chunksScript s.cfg k (sendChunks s.cfg s.sess.intron t v frags).length).length + 1 + 1 := by
      simp [sendScript]
    have hbuild := run_build (rest := rest) (s := atBuild k (.send t v frags) s.tx.pendingIntron
        { s.env with
          inputs := goOn (.caller k) ::
            (chunksScript s.cfg k (sendChunks s.cfg s.sess.intron t v frags).length ++ rest)
          agent := .caller k } s)
      hh hi hpending (callerOp_of_set hk' rfl) hfits rfl hstarts rfl
    rw [jobChunks_flatten] at hbuild
    rw [hlength, run_succ (step_send hh hi hk hidle hfree hin)]
    refine hbuild.trans ?_
    simp only [sendEnded, sentAll, atBuild, queryTracked, List.set_set]
    rfl
  case interleaved =>
    rintro s u k n job frame hinv hop rfl hrun hheld
    rw [← jobChunks_flatten]
    obtain ⟨hinv', stage, hop', hunder⟩ := inSend_of_run hinv hop hrun hheld
    refine ⟨hunder.grown, fun w hstep hne => ?_⟩
    obtain ⟨stage', hop'', hunder'⟩ | ⟨ok, ⟨-, hreturns⟩, hended⟩ :=
      inSendOrReturned_of_step hop' hinv' hunder hrun hstep
    · have ⟨_, _, _, _, htx, _⟩ := stepKeepsInvariant u w hinv' hstep
      exact absurd (htx.lock_of_holder hop'' (holdsLock_tx.mpr hunder'.ne_acquire)) hne
    · exact ⟨ok, hreturns, hended.report⟩

end Sys2Proof.Machine
end

section
/-! RX_BYTE as an instruction, by parser state (42_rx_parser R160 to R167): the whole next state of a byte in the intron, in
the header, in a payload and in a discard, with the dispatch of the frame it completes. -/

namespace Sys2Proof.Machine

open Sys2Proof

section

variable {s : State} {b : Byte}

/-- RX_BYTE of an idle poller is the parser's step (R160 to R165). -/
theorem exec_rxByte (b : Byte) (hready : Ready .poller s) : exec (.rxByte b) s = .next (rxByte b s) :=
  enter_of_ready hready _

/-! ### The intron (R160) -/

/-- A byte that is not the next of the intron begins a new match, or is given up with the bytes matched before it. -/
theorem rxByte_of_mismatch (hs : s.rx.pstate = .seekingIntron) (hb : ¬ s.sess.intron[s.rx.ipos]? = some b) :
    rxByte b s =
      if s.sess.intron[0]? = some b then { s with rx := restartByte b s.rx } else { s with rx := skipByte s.rx } := by
  simp only [rxByte, hs, seekByte, if_neg hb]

/-- The completed intron reports the bytes given up before it, and HEADER begins. -/
theorem beginHeader_reportSkipped_matchByte (b : Byte) (s : State) :
    beginHeader (reportSkipped { s with rx := matchByte b s.rx }) =
      { s with
        rx := { s.rx with ibuf := s.rx.ibuf.set s.rx.ipos b, ipos := 0, hpos := 0, skipped := 0, pstate := .header }
        out.events := s.out.events ++ resyncEvents s.rx.skipped } := by
  rw [reportSkipped_eq]
  rfl

/-- Settles O28: the byte that matches, by whether it is the intron's last, and the byte that does not. -/
theorem byteWhileSeekingTheIntron : Obligations.ByteWhileSeekingTheIntron := by
  intro s b hready hs
  rw [exec_rxByte b hready]
  by_cases hb : s.sess.intron[s.rx.ipos]? = some b
  · rw [rxByte_of_intron hs hb, if_pos hb, beginHeader_reportSkipped_matchByte]
    rfl
  · rw [rxByte_of_mismatch hs hb, if_neg hb]
    rfl

/-! ### The header (R161, R162) -/

/-- Settles O29: a byte that is not the eighth is only collected. -/
theorem headerByteIsCollected : Obligations.HeaderByteIsCollected := by
  intro s b hready hs hmore
  rw [exec_rxByte b hready, rxByte_of_header b hs, if_neg (by omega)]
  rfl

/-- The eighth byte is the last of the checksum field, and the fields before it are as collected (30_encoding R80). -/
theorem decodeHeader_collectByte {p : Parser} (b : Byte) (hpos : p.hpos = 7) (hlen : p.hbuf.length = 8) :
    decodeHeader { collectByte b p with hpos := 0 } = headerDecoded b p := by
  simp [decodeHeader, collectByte, hpos, hlen]

/-- The eighth byte decodes the header and takes the path of its type (R162). -/
theorem rxByte_of_last_header (b : Byte) (hs : s.rx.pstate = .header) (hpos : s.rx.hpos = 7) (hlen : s.rx.hbuf.length = 8) :
    rxByte b s = headerPath { s with rx := headerDecoded b s.rx } := by
  rw [rxByte_of_header b hs, if_pos (by omega), headerComplete, decodeHeader_collectByte b hpos hlen]

/-- The path of INVALID (R162, 43_rx_handlers R195). -/
theorem headerPath_invalid (htype : typeOf s.cfg.typeCode s.rx.rtype = some .invalid) : headerPath s = invalidHeader s := by
  simp only [headerPath, htype]

/-- The path of a PACKET with no payload, whose header is its whole frame (R162). -/
theorem headerPath_keepalive (htype : typeOf s.cfg.typeCode s.rx.rtype = some .packet) (hsize : s.rx.rsize = 0) :
    headerPath s = endFrame (dispatch s) := by
  simp only [headerPath, htype, if_pos hsize]

/-- The path of the types with a fixed length (R162, 43_rx_handlers R201). -/
theorem headerPath_fixed {t : MsgType} {len : Nat} (htype : typeOf s.cfg.typeCode s.rx.rtype = some t)
    (hlen : fixedLen s.cfg t = some len) : headerPath s = fixedHeader len s := by
  unfold headerPath
  rw [htype]
  cases t <;> cases hlen <;> rfl

/-- The path of the types the block only sends, and of no type (R162, 43_rx_handlers R200). -/
theorem headerPath_unknown
    (h : ∀ t, typeOf s.cfg.typeCode s.rx.rtype = some t →
      t = .clientConfig ∨ t = .scanStart ∨ t = .scanStop ∨ t = .scanApGet) : headerPath s = unknownHeader s := by
  unfold headerPath
  cases htype : typeOf s.cfg.typeCode s.rx.rtype with
  | none => rfl
  | some t => obtain rfl | rfl | rfl | rfl := h t htype <;> rfl

/-! ### The dispatch of a completed frame (R167) -/

/-- Under a right checksum a completed frame goes to its type's handler (43_rx_handlers R190). -/
theorem dispatch_of_right {t : Option MsgType} {payload : List Byte} (htype : typeOf s.cfg.typeCode s.rx.rtype = t)
    (hpayload : dispatchPayload s.rx = payload)
    (hright : frameCrc s.cfg.crc s.rx.ibuf (s.rx.hbuf.take 4) payload = s.rx.rcrc) :
    dispatch s = handle t true payload s := by
  rw [dispatch, htype, hpayload, checkFrame_iff.mpr hright]

/-- Under a wrong one a completed frame that holds no chain is only reported (43_rx_handlers R190, R202). -/
theorem endFrame_dispatch_of_wrong {payload : List Byte} (hpayload : dispatchPayload s.rx = payload)
    (hwrong : frameCrc s.cfg.crc s.rx.ibuf (s.rx.hbuf.take 4) payload ≠ s.rx.rcrc) (hchain : s.rx.chain = none) :
    endFrame (dispatch s) =
      { s with rx := parserIdle s.rx, out.events := s.out.events ++ [.crcMismatch s.rx.rtype] } := by
  have hcheck : checkFrame s.cfg s.rx payload = false := Bool.eq_false_iff.mpr (mt checkFrame_iff.mp hwrong)
  have hnone : { s.rx with chain := none } = s.rx := by rw [← hchain]
  rw [dispatch, hpayload, hcheck, handle_bad, handleBadChecksum_eq, hnone, hchain, Option.toList_none, List.append_nil]
  rfl

/-- The payload of a PACKET with none, which is dispatched from HEADER (R167). -/
theorem dispatchPayload_of_header {p : Parser} (hs : p.pstate = .header) : dispatchPayload p = [] := by
  simp only [dispatchPayload, hs]

/-- The payload of a fixed-payload frame is what FBUF holds of it (R167). -/
theorem dispatchPayload_of_checksumOnly {p : Parser} (hs : p.pstate = .checksumOnly) :
    dispatchPayload p = p.fbuf.take p.rsize.toNat := by
  simp only [dispatchPayload, hs]

/-- A PACKET with no payload is a keepalive under a right checksum, and under a wrong one an event (43_rx_handlers R190, R198,
R202). -/
theorem endFrame_dispatch_keepalive (htype : typeOf s.cfg.typeCode s.rx.rtype = some .packet) (hsize : s.rx.rsize = 0)
    (hs : s.rx.pstate = .header) (hchain : s.rx.chain = none) :
    endFrame (dispatch s) =
      if frameCrc s.cfg.crc s.rx.ibuf (s.rx.hbuf.take 4) [] = s.rx.rcrc then
        { s with rx := parserIdle s.rx, sess := sessionLinked s.rx.rvar s.sess
                 out.netifLink := s.out.netifLink ++ linkNotes s.rx.rvar s.sess }
      else { s with rx := parserIdle s.rx, out.events := s.out.events ++ [.crcMismatch s.rx.rtype] } := by
  have hpayload := dispatchPayload_of_header hs
  split
  next hright =>
    rw [dispatch_of_right htype hpayload hright, handle_packet, if_pos hsize, handleKeepalive_eq]
    rfl
  next hwrong => exact endFrame_dispatch_of_wrong hpayload hwrong hchain

/-- Settles O30: the eighth byte decodes the header, and each clause is the path of its types. -/
theorem headerSelectsThePathOfItsType : Obligations.HeaderSelectsThePathOfItsType := by
  rintro s b p hready hs hpos hlen rfl
  rw [exec_rxByte b hready, rxByte_of_last_header b hs hpos hlen]
  refine ⟨?fatal, ?invalid, ?packet, ?keepalive, ?fixed, ?unknown⟩
  case fatal =>
    intro htype hdebug
    rw [headerPath_invalid htype, invalidHeader, if_pos hdebug]
    rfl
  case invalid =>
    intro htype hdebug
    rw [headerPath_invalid htype, invalidHeader, if_neg (by simp [hdebug]), startDiscard_eq]
    rfl
  case packet =>
    intro htype hsize d
    refine ⟨fun hd => ?_, fun lens hd => ?_⟩
    · rw [headerPath_packet htype hsize hd, openChain, startDiscard_eq]
    · rw [headerPath_packet htype hsize hd, openChain]
  case keepalive =>
    intro htype hsize hchain
    have hpath := headerPath_keepalive (s := { s with rx := headerDecoded b s.rx }) htype hsize
    rw [hpath, endFrame_dispatch_keepalive (s := { s with rx := headerDecoded b s.rx }) htype hsize hs hchain]
  case fixed =>
    intro t len htype hfixed
    have hpath := headerPath_fixed (s := { s with rx := headerDecoded b s.rx }) htype hfixed
    rw [hpath, fixedHeader, startDiscard_eq]
    rfl
  case unknown =>
    intro htype
    rw [headerPath_unknown htype, unknownHeader, startDiscard_eq]
    rfl

/-! ### The payload (R163, R164) -/

/-- A byte is the last of its payload exactly where one was to come (10_state R34). -/
theorem countByte_remain_eq_zero {p : Parser} : (countByte p).remain = 0 ↔ p.remain = 1 := by
  simp only [countByte]
  bv_omega

/-- A byte that is not the last of its payload ends nothing. -/
theorem finishPayload_of_more (s : State) {p : Parser} (h : p.remain ≠ 1) :
    finishPayload { s with rx := countByte p } = { s with rx := countByte p } :=
  if_neg (mt countByte_remain_eq_zero.mp h)

/-- The last byte of a payload dispatches its frame. -/
theorem finishPayload_of_last (s : State) {p : Parser} (h : p.remain = 1) :
    finishPayload { s with rx := countByte p } = endFrame (dispatch { s with rx := countByte p }) :=
  if_pos (countByte_remain_eq_zero.mpr h)

/-- A byte of a fixed payload is buffered and counted; the last one ends the frame (R163). -/
theorem rxByte_of_buffer (b : Byte) (hs : s.rx.pstate = .checksumOnly) :
    rxByte b s = finishPayload { s with rx := countByte (bufferPut b s.rx) } := by
  simp only [rxByte, hs, bufferByte]

/-- The chain writer does not count (20_memory R65). -/
theorem chainWrite_remain (b : Byte) (p : Parser) : (chainWrite b p).remain = p.remain := by
  unfold chainWrite
  split
  · rfl
  · split <;> rfl

/-- The write at a cursor inside its chain, by the fragment it is in (20_memory R65). -/
theorem putByte_of_fragment {ch : Chain} {j : Nat} {frag : List Byte} (off : Nat) (b : Byte) (h : ch[j]? = some frag) :
    putByte ch j off b = ch.set j (frag.set off b) := by
  simp only [putByte, List.getD_eq_getElem?_getD, h, Option.getD_some]

/-- `ChainWrite(b)` with the cursor inside its chain, by the fragment it is in (20_memory R65). -/
theorem chainWrite_of_fragment {p : Parser} {ch : Chain} {frag : List Byte} (b : Byte) (hchain : p.chain = some ch)
    (hfrag : ch[p.curFrag]? = some frag) :
    chainWrite b p =
      { p with
        chain := some (ch.set p.curFrag (frag.set p.curOff b))
        curFrag := if p.curOff + 1 = frag.length then p.curFrag + 1 else p.curFrag
        curOff := if p.curOff + 1 = frag.length then 0 else p.curOff + 1 } := by
  rw [chainWrite_eq b hchain, putByte_of_fragment _ b hfrag, List.getD_eq_getElem?_getD, hfrag, Option.getD_some]

/-- Settles O31: the byte is stored where its state says, and the frame goes on. -/
theorem payloadByteIsStored : Obligations.PayloadByteIsStored := by
  intro s b hready hmore
  rw [exec_rxByte b hready]
  refine ⟨fun hs => ?buffered, fun ch frag hs hchain hfrag => ?streamed⟩
  case buffered =>
    rw [rxByte_of_buffer b hs, finishPayload_of_more s (p := bufferPut b s.rx) hmore]
    rfl
  case streamed =>
    have hmore' : (chainWrite b s.rx).remain ≠ 1 := (chainWrite_remain b s.rx).symm ▸ hmore
    rw [rxByte_of_stream b hs, finishPayload_of_more s hmore', chainWrite_of_fragment b hchain hfrag]
    rfl

/-! ### The last byte of a fixed payload (R163, 43_rx_handlers R191 to R194) -/

/-- The parser at the dispatch of a fixed-payload frame: the last byte in FBUF, and none to come. -/
theorem rxByte_of_last_buffer (b : Byte) (hs : s.rx.pstate = .checksumOnly) (hlast : s.rx.remain = 1) :
    rxByte b s = endFrame (dispatch { s with rx := countByte (bufferPut b s.rx) }) := by
  rw [rxByte_of_buffer b hs, finishPayload_of_last s (p := bufferPut b s.rx) hlast]

/-- DEVICE_INFO's handlers, by the version it carries (43_rx_handlers R191, R192). -/
theorem handle_deviceInfo (payload : List Byte) (s : State) :
    handle (some .deviceInfo) true payload s =
      if s.rx.rvar = s.cfg.supportedVersion then handleDeviceInfo payload s else handleWrongVersion s := rfl

/-- SCAN_AP_COUNT's handler (43_rx_handlers R193). -/
theorem handle_scanApCount (payload : List Byte) (s : State) :
    handle (some .scanApCount) true payload s = handleApCount payload s := rfl

/-- SCAN_AP_INFO's handler (43_rx_handlers R194). -/
theorem handle_scanApInfo (payload : List Byte) (s : State) :
    handle (some .scanApInfo) true payload s = handleApInfo payload s := rfl

/-- SCAN_AP_INFO's effect, as one update (43_rx_handlers R194). -/
theorem handleApInfo_eq (payload : List Byte) (s : State) :
    handleApInfo payload s =
      { s with sess.apSlot := if s.sess.lastQuery = some s.rx.rvar then some (s.rx.rvar, payload) else s.sess.apSlot } := by
  unfold handleApInfo
  split <;> rfl

/-- Settles O33: the checksum over the buffered payload selects the report or the handler of the type. -/
theorem lastFixedPayloadByteDispatches : Obligations.LastFixedPayloadByteDispatches := by
  rintro s b p payload hready hs hlast hchain rfl rfl
  have hpayload : dispatchPayload (countByte (bufferPut b s.rx)) = (s.rx.fbuf.set s.rx.fpos b).take s.rx.rsize.toNat :=
    dispatchPayload_of_checksumOnly hs
  rw [exec_rxByte b hready, rxByte_of_last_buffer b hs hlast]
  refine ⟨fun hwrong => ?wrong, fun hright => ?right⟩
  case wrong =>
    rw [endFrame_dispatch_of_wrong (s := { s with rx := countByte (bufferPut b s.rx) }) hpayload hwrong hchain]
    rfl
  case right =>
    have hdispatch (t : MsgType) (htype : typeOf s.cfg.typeCode s.rx.rtype = some t) :=
      dispatch_of_right (s := { s with rx := countByte (bufferPut b s.rx) }) htype hpayload hright
    refine ⟨fun htype hversion => ?supported, fun htype hversion => ?other, fun htype => ?count, fun htype => ?info⟩
    case supported =>
      have hversion' : (countByte (bufferPut b s.rx)).rvar = s.cfg.supportedVersion := hversion
      rw [hdispatch _ htype, handle_deviceInfo, if_pos hversion', handleDeviceInfo, casMode_eq]
      rfl
    case other =>
      have hversion' : (countByte (bufferPut b s.rx)).rvar ≠ s.cfg.supportedVersion := hversion
      rw [hdispatch _ htype, handle_deviceInfo, if_neg hversion', handleWrongVersion, casMode_eq]
      rfl
    case count =>
      rw [hdispatch _ htype, handle_scanApCount]
      rfl
    case info =>
      rw [hdispatch _ htype, handle_scanApInfo, handleApInfo_eq]
      rfl

/-! ### The last byte of a packet (R164, 43_rx_handlers R196, R197) -/

/-- Settles O34: the byte fills the chain, which the checksum then delivers or releases. -/
theorem lastPacketByteDeliversOrReleases : Obligations.LastPacketByteDeliversOrReleases := by
  rintro s b ch full frag hready hs hlast hsize htype hchain hfrag rfl
  have hfull : (countByte (chainWrite b s.rx)).chain = some (ch.set s.rx.curFrag (frag.set s.rx.curOff b)) := by
    rw [chainWrite_of_fragment b hchain hfrag]
    rfl
  obtain ⟨hqs, hqtype, hqsize, -, -⟩ := streamed_registers b hchain rfl
  have hremain : (chainWrite b s.rx).remain = 1 := (chainWrite_remain b s.rx).trans hlast
  rw [exec_rxByte b hready, rxByte_of_stream b hs, finishPayload_of_last s hremain,
    endFrame_dispatch_packet (hqs.trans hs) (hqsize ▸ hsize) (hqtype ▸ htype) hfull, packetEnded_streamed b hchain]
  rfl

/-! ### The discard (R165) -/

/-- A discarded byte, whatever it is, is counted; the last one ends the frame. -/
theorem rxByte_of_discard (b : Byte) (hs : s.rx.pstate = .discard) :
    rxByte b s = finishDiscard { s with rx := countByte s.rx } := by
  simp only [rxByte, hs, discardByte]

/-- Settles O32: the count ends the frame or goes on. -/
theorem discardedByteIsOnlyCounted : Obligations.DiscardedByteIsOnlyCounted := by
  intro s b hready hs
  rw [exec_rxByte b hready, rxByte_of_discard b hs, finishDiscard]
  by_cases hlast : s.rx.remain = 1
  · rw [if_pos (countByte_remain_eq_zero.mpr hlast), if_pos hlast]
    rfl
  · rw [if_neg (mt countByte_remain_eq_zero.mp hlast), if_neg hlast]
    rfl

end

end Sys2Proof.Machine
end

section
/-! RX_FEED (42_rx_parser R168, R170): the first byte in its own step, the others one a step; and a sequence of feeds, each run
to its end, which comes to their bytes joined. -/

namespace Sys2Proof.Machine

open Sys2Proof

section

variable {s : State} {rest : List Input}

/-! ### The first step -/

/-- RX_FEED of no byte does nothing. -/
theorem exec_rxFeed_nil (hready : Ready .poller s) : exec (.rxFeed []) s = .next s := by
  obtain ⟨-, -, hfeed⟩ := idle_of_ready_poller hready
  have hsame : { s with tasks.feed := [] } = s := by rw [← hfeed]
  exact (enter_of_ready hready _).trans (congrArg _ hsame)

/-- RX_FEED of a byte and more feeds that byte. -/
theorem exec_rxFeed_cons (b : Byte) (bs : List Byte) (hready : Ready .poller s) :
    exec (.rxFeed (b :: bs)) s = .next (fed b bs s) := beginFeed_cons b bs hready

/-- Settles O43: the empty feed, and the first byte by whether it halts the block. -/
theorem rxFeedFeedsItsBytesInOrder : Obligations.RxFeedFeedsItsBytesInOrder := by
  refine ⟨fun s hready => exec_rxFeed_nil hready, fun s b bs hready hnext => ?goesOn, fun s b bs hready hfatal => ?stops⟩
  case goesOn => rw [exec_rxFeed_cons b bs hready, fed, if_pos hnext]
  case stops => rw [exec_rxFeed_cons b bs hready, fed, if_neg (by simp [hfatal])]

/-! ### A feed to its end -/

/-- The poller that is feeding nothing may begin a feed. -/
theorem ready_feeding_nil (hh : s.halted = none) (hi : s.inited = true) (hpoll : s.poll = none) :
    Ready .poller (feeding [] rest s) :=
  ⟨hh, hi, rfl, by simp [agentBusy, feeding, hpoll]⟩

/-- The step of a scheduled RX_FEED with the poller idle runs it. -/
theorem step_rxFeed (bytes : List Byte) (hh : s.halted = none) :
    step (feeding [] (issue s.cfg .poller (.rxFeed bytes) :: rest) s) = exec (.rxFeed bytes) (feeding [] rest s) :=
  step_issue rfl hh rfl

/-- The steps of one RX_FEED: its issue, and one of the poller for each byte after the first. -/
def feedSteps (cfg : Config) (bytes : List Byte) : List Input :=
  issue cfg .poller (.rxFeed bytes) :: List.replicate (bytes.length - 1) (goOn .poller)

/-- `feedScript` is the steps of each part, one part after the other. -/
theorem feedScript_cons (cfg : Config) (p : List Byte) (parts : List (List Byte)) :
    feedScript cfg (p :: parts) = feedSteps cfg p ++ feedScript cfg parts := rfl

/-- One RX_FEED, run to its end, comes to its bytes fed in one go. -/
theorem run_rxFeed {bytes : List Byte} (hi : s.inited = true) (hpoll : s.poll = none)
    (hend : (rxAll bytes s).halted = none) :
    Host.Core.run Sys2Proof.core (feedSteps s.cfg bytes).length (feeding [] (feedSteps s.cfg bytes ++ rest) s) =
      .next (feeding [] rest (rxAll bytes s)) := by
  have hh := halted_of_rxAll hend
  have hready (inputs : List Input) := ready_feeding_nil (rest := inputs) hh hi hpoll
  cases bytes with
  | nil => exact run_one ((step_rxFeed [] hh).trans (exec_rxFeed_nil (hready rest)))
  | cons b bs =>
    rw [rxAll_cons b bs hh] at hend ⊢
    have hkeeps := RxKeeps.of_rxByte b s
    have hfirst : step (feeding [] (feedSteps s.cfg (b :: bs) ++ rest) s) =
        .next (feeding bs (List.replicate bs.length (goOn .poller) ++ rest) (rxByte b s)) := by
      rw [feedSteps, List.cons_append, step_rxFeed (b :: bs) hh, exec_rxFeed_cons b bs (hready _),
        fed_feeding b [] _ (halted_of_rxAll hend)]
      rfl
    rw [show (feedSteps s.cfg (b :: bs)).length = bs.length + 1 by simp [feedSteps], run_succ hfirst]
    exact run_feeding (hkeeps.inited.trans hi) (hkeeps.poll.trans hpoll) hend

/-- Several RX_FEEDs, one after the other, come to their bytes joined and fed in one go (R168). -/
theorem run_feedScript {parts : List (List Byte)} (hi : s.inited = true) (hpoll : s.poll = none)
    (hend : (rxAll parts.flatten s).halted = none) :
    Host.Core.run Sys2Proof.core (feedScript s.cfg parts).length (feeding [] (feedScript s.cfg parts ++ rest) s) =
      .next (feeding [] rest (rxAll parts.flatten s)) := by
  induction parts generalizing s with
  | nil => rfl
  | cons p parts ih =>
    rw [List.flatten_cons, rxAll_append] at hend ⊢
    have hkeeps := RxKeeps.of_rxAll p s
    have hfirst := run_rxFeed (rest := feedScript s.cfg parts ++ rest) hi hpoll (halted_of_rxAll hend)
    have hlater := ih (hkeeps.inited.trans hi) (hkeeps.poll.trans hpoll) hend
    rw [hkeeps.cfg] at hlater
    rw [feedScript_cons, List.length_append, List.append_assoc, run_add hfirst]
    exact hlater

/-- An idle poller is feeding nothing. -/
theorem feeding_of_ready (hready : Ready .poller s) : feeding [] s.env.inputs s = s := feeding_done (bs := []) hready

end

/-- Settles O44: each part's feed, run to its end, leaves the poller idle for the next. -/
theorem chunkingDoesNotMatter : Obligations.ChunkingDoesNotMatter := by
  intro s parts rest hready _ hend hin
  have ⟨_, hi, _, _⟩ := hready
  obtain ⟨-, hpoll, -⟩ := idle_of_ready_poller hready
  have hrun := run_feedScript (rest := rest) hi hpoll hend
  rw [← hin, feeding_of_ready hready] at hrun
  rw [hrun, ← feeding_done (bs := parts.flatten) hready]
  rfl

end Sys2Proof.Machine
end

section
/-! What a byte outside SEEKING_INTRON does not read (42_rx_parser R169): the intron, and in DISCARD the byte itself. Replacing
the intron before the byte or after it comes to the same. -/

namespace Sys2Proof.Machine

open Sys2Proof

/-- The state with another intron. -/
def withIntron (i : List Byte) (s : State) : State := { s with sess.intron := i }

section

variable (i : List Byte) (s : State)

@[simp] theorem withIntron_cfg : (withIntron i s).cfg = s.cfg := rfl
@[simp] theorem withIntron_rx : (withIntron i s).rx = s.rx := rfl

/-! ### The completed frame -/

/-- No handler reads the intron: the checksum is over the intron as received (40_codec R114). -/
theorem handle_withIntron (t : Option MsgType) (ok : Bool) (payload : List Byte) :
    handle t ok payload (withIntron i s) = withIntron i (handle t ok payload s) := by
  cases ok with
  | false =>
    rw [handle_bad, handle_bad, handleBadChecksum_eq, handleBadChecksum_eq]
    rfl
  | true =>
    unfold handle
    simp only [if_true, withIntron_rx, withIntron_cfg]
    split
    next =>
      rw [apply_ite (withIntron i)]
      refine if_congr Iff.rfl ?_ ?_
      · rw [handleDeviceInfo, handleDeviceInfo, casMode_eq, casMode_eq]
        rfl
      · rw [handleWrongVersion, handleWrongVersion, casMode_eq, casMode_eq]
        rfl
    next => rfl
    next =>
      rw [handleApInfo_eq, handleApInfo_eq]
      rfl
    next =>
      rw [apply_ite (withIntron i)]
      refine if_congr Iff.rfl ?_ ?_
      · rw [handleKeepalive_eq, handleKeepalive_eq]
        rfl
      · rw [handlePacket_eq, handlePacket_eq]
        rfl
    next => rfl

theorem dispatch_withIntron : dispatch (withIntron i s) = withIntron i (dispatch s) := handle_withIntron i s _ _ _

theorem endFrame_withIntron : endFrame (withIntron i s) = withIntron i (endFrame s) := rfl

theorem finishPayload_withIntron : finishPayload (withIntron i s) = withIntron i (finishPayload s) := by
  unfold finishPayload
  rw [dispatch_withIntron, endFrame_withIntron, apply_ite (withIntron i)]
  rfl

/-! ### The header -/

theorem startDiscard_withIntron (n : U16) : startDiscard n (withIntron i s) = withIntron i (startDiscard n s) := by
  rw [startDiscard_eq, startDiscard_eq]
  rfl

theorem invalidHeader_withIntron : invalidHeader (withIntron i s) = withIntron i (invalidHeader s) := by
  unfold invalidHeader
  rw [apply_ite (withIntron i), ← startDiscard_withIntron]
  rfl

theorem fixedHeader_withIntron (n : Nat) : fixedHeader n (withIntron i s) = withIntron i (fixedHeader n s) := by
  unfold fixedHeader
  rw [apply_ite (withIntron i), ← startDiscard_withIntron]
  rfl

theorem unknownHeader_withIntron : unknownHeader (withIntron i s) = withIntron i (unknownHeader s) :=
  startDiscard_withIntron i (emit (.unknownType s.rx.rtype) s) _

theorem openChain_withIntron (a : Option (List Nat)) : openChain a (withIntron i s) = withIntron i (openChain a s) := by
  cases a with
  | none => exact startDiscard_withIntron i s _
  | some lens => rfl

theorem headerPath_withIntron : headerPath (withIntron i s) = withIntron i (headerPath s) := by
  unfold headerPath
  simp only [withIntron_rx, withIntron_cfg]
  split
  next => exact invalidHeader_withIntron i s
  next =>
    rw [dispatch_withIntron, endFrame_withIntron, apply_ite (withIntron i)]
    congr 1
    exact openChain_withIntron i { s with env.draws := (drawAlloc s.rx.rsize.toNat s.env.draws).2 } _
  next => exact fixedHeader_withIntron i s _
  next => exact fixedHeader_withIntron i s _
  next => exact fixedHeader_withIntron i s _
  all_goals exact unknownHeader_withIntron i s

/-! ### A byte, by parser state -/

/-- Outside SEEKING_INTRON a byte is not compared with the intron (R169). -/
theorem rxByte_withIntron {s : State} (b : Byte) (hs : s.rx.pstate ≠ .seekingIntron) :
    rxByte b (withIntron i s) = withIntron i (rxByte b s) := by
  cases hst : s.rx.pstate with
  | seekingIntron => exact absurd hst hs
  | header =>
    rw [rxByte_of_header b hst, rxByte_of_header b (s := withIntron i s) hst, apply_ite (withIntron i)]
    congr 1
    exact headerPath_withIntron i { s with rx := decodeHeader { collectByte b s.rx with hpos := 0 } }
  | checksumOnly =>
    rw [rxByte_of_buffer b hst, rxByte_of_buffer b (s := withIntron i s) hst]
    exact finishPayload_withIntron i { s with rx := countByte (bufferPut b s.rx) }
  | payloadStreaming =>
    rw [rxByte_of_stream b hst, rxByte_of_stream b (s := withIntron i s) hst]
    exact finishPayload_withIntron i { s with rx := countByte (chainWrite b s.rx) }
  | discard =>
    rw [rxByte_of_discard b hst, rxByte_of_discard b (s := withIntron i s) hst, finishDiscard, finishDiscard,
      apply_ite (withIntron i)]
    rfl

end

/-- Settles O46: no operation outside SEEKING_INTRON reads the intron, and the discard reads no byte. -/
theorem bytesAreNeverReexamined : Obligations.BytesAreNeverReexamined :=
  ⟨fun _ b other hs => rxByte_withIntron other b hs,
   fun _ b b' hs => (rxByte_of_discard b hs).trans (rxByte_of_discard b' hs).symm⟩

end Sys2Proof.Machine
end

section
/-! A recognised frame as a whole (42_rx_parser R160 to R162, R165, R166): its header's path, then its payload; and the
frames that end there: a keepalive, and every frame whose header is reported and whose payload is discarded. -/

namespace Sys2Proof.Machine

open Sys2Proof

section

variable {s : State} {f : Frame} {code : Byte}

/-! ### The header's path and the payload -/

/-- A recognised frame takes the path of its type with its payload still to come (R162). -/
theorem rxAll_frame (t : MsgType) (hh : s.halted = none) (hstart : atFrameStart s) (hf : recognisable s f)
    (hcode : code = typeCodeOf s.cfg.typeCode t) :
    rxAll (encodeFrame s.cfg t f) s = rxAll f.payload (headerPath (headerReceived code f s)) := by
  rw [encodeFrame, ← hcode, frameBytes, rxAll_append, rxAll_prelude code hh hstart hf]

/-- A recognised frame, received, comes to its payload fed behind its header's path. -/
theorem receive_frame {u : State} (t : MsgType) (hready : Ready .poller s) (hstart : atFrameStart s)
    (hf : recognisable s f) (hcode : code = typeCodeOf s.cfg.typeCode t)
    (hend : rxAll f.payload (headerPath (headerReceived code f s)) = u) (hu : u.halted = none) :
    receive (frameInstr t f) s = .next u := by
  have ⟨hh, _⟩ := hready
  have ⟨hc, _⟩ := hstart
  have ⟨hwf, _⟩ := hf
  exact receive_frameInstr t hready hc hwf ((rxAll_frame t hh hstart hf hcode).trans hend) hu

/-! ### The frames that are reported and discarded (R165) -/

/-- A recognised frame whose header is reported and whose payload is discarded: the event, and nothing else. -/
theorem receive_of_discard {ev : Event} (t : MsgType) (hready : Ready .poller s) (hstart : atFrameStart s)
    (hf : recognisable s f) (hcode : code = typeCodeOf s.cfg.typeCode t)
    (hpath : headerPath (headerReceived code f s) =
      startDiscard (BitVec.ofNat 16 f.payload.length) (emit ev (headerReceived code f s))) :
    receive (frameInstr t f) s =
      .next { s with rx := parserAfter code f s.rx
                     out.events := s.out.events ++ resyncEvents s.rx.skipped ++ [ev] } := by
  have ⟨hh, _⟩ := hready
  have ⟨hwf, _⟩ := hf
  have hend := rxAll_startDiscard (s := emit ev (headerReceived code f s)) hh (Frame.wf_iff.mp hwf).2
  exact receive_frame t hready hstart hf hcode ((congrArg _ hpath).trans hend) hh

/-- A recognised frame of a type that the block only sends (43_rx_handlers R200). -/
theorem receive_sendOnly (t : MsgType) (ht : t = .clientConfig ∨ t = .scanStart ∨ t = .scanStop ∨ t = .scanApGet)
    (hready : Ready .poller s) (hstart : atFrameStart s) (hf : recognisable s f)
    (hcode : code = typeCodeOf s.cfg.typeCode t) :
    receive (frameInstr t f) s =
      .next { s with rx := parserAfter code f s.rx
                     out.events := s.out.events ++ resyncEvents s.rx.skipped ++ [.unknownType code] } := by
  have ⟨hc, _⟩ := hstart
  have htype := headerReceived_rtype (f := f) t hc hcode
  refine receive_of_discard t hready hstart hf hcode (headerPath_unknown fun t' ht' => ?_)
  obtain rfl : t = t' := Option.some.inj (htype.symm.trans ht')
  exact ht

end

/-- Settles O41: each of the four types takes the path of the types with no receive handler. -/
theorem sendOnlyFramesAreDiscarded : Obligations.SendOnlyFramesAreDiscarded := by
  intro s f hready hstart hf
  refine ⟨fun code hcode => ?_, fun code hcode => ?_, fun code hcode => ?_, fun code hcode => ?_⟩
  · exact receive_sendOnly .clientConfig (by simp) hready hstart hf hcode
  · exact receive_sendOnly .scanStart (by simp) hready hstart hf hcode
  · exact receive_sendOnly .scanStop (by simp) hready hstart hf hcode
  · exact receive_sendOnly .scanApGet (by simp) hready hstart hf hcode

/-! ### The keepalive (43_rx_handlers R198) -/

/-- Settles O40: the header of a PACKET with no payload is its whole frame, which is dispatched from there. -/
theorem keepaliveFrame : Obligations.KeepaliveFrame := by
  intro s ⟨intron, v, checksum, payload⟩ code hready hstart hf hcode hempty
  obtain rfl : payload = [] := hempty
  have ⟨hh, _⟩ := hready
  have ⟨hc, _, _, hchain, _⟩ := hstart
  have htype := headerReceived_rtype (f := ⟨intron, v, checksum, []⟩) .packet hc hcode
  have hpath := headerPath_keepalive (s := headerReceived code ⟨intron, v, checksum, []⟩ s) htype rfl
  rw [endFrame_dispatch_keepalive (s := headerReceived code ⟨intron, v, checksum, []⟩ s) htype rfl rfl hchain] at hpath
  exact receive_frame .packet hready hstart hf hcode (hpath.trans (if_congr eq_comm rfl rfl)) (by split <;> exact hh)

end Sys2Proof.Machine
end

section
/-! A recognised frame of a fixed-payload type (42_rx_parser R162, R163, 43_rx_handlers R191 to R194, R201, R202): reported
for its length, else its payload fills FBUF, and its checksum selects the report or its type's handler. -/

namespace Sys2Proof.Machine

open Sys2Proof

section

variable {s : State} {p : Parser}

/-! ### The payload into FBUF (R163) -/

/-- The parser's registers when a fixed payload stands in FBUF and none of it is to come. -/
def payloadBuffered (payload : List Byte) (p : Parser) : Parser :=
  { p with fbuf := payload ++ p.fbuf.drop payload.length, fpos := payload.length, remain := 0 }

/-- A payload all of whose bytes have come is in FBUF already. -/
theorem payloadBuffered_of_done {done junk : List Byte} (hpos : p.fpos = done.length) (hbuf : p.fbuf = done ++ junk)
    (hremain : p.remain = 0) : payloadBuffered done p = p := by
  rw [payloadBuffered, hbuf, List.drop_left, ← hbuf, ← hpos, ← hremain]

/-- What FBUF holds behind a payload does not depend on the payload's bytes that have come. -/
theorem payloadBuffered_bufferPut {payload : List Byte} (b : Byte) (h : p.fpos < payload.length) :
    payloadBuffered payload (countByte (bufferPut b p)) = payloadBuffered payload p := by
  simp [payloadBuffered, countByte, bufferPut, List.drop_set_of_lt h]

/-- A byte goes into FBUF behind those that have come. -/
theorem bufferPut_fbuf {done junk : List Byte} {j : Byte} (b : Byte) (hpos : p.fpos = done.length)
    (hbuf : p.fbuf = done ++ j :: junk) : (bufferPut b p).fbuf = (done ++ [b]) ++ junk := by
  simp [bufferPut, hpos, hbuf]

/-- The rest of a fixed payload, from any number of its bytes buffered: when all have come the frame is dispatched. -/
theorem rxAll_buffer_rest {done todo junk : List Byte} (hh : s.halted = none) (hs : s.rx.pstate = .checksumOnly)
    (hpos : s.rx.fpos = done.length) (hbuf : s.rx.fbuf = done ++ junk) (hroom : todo.length ≤ junk.length)
    (hremain : s.rx.remain.toNat = todo.length) :
    rxAll todo (finishPayload s) = endFrame (dispatch { s with rx := payloadBuffered (done ++ todo) s.rx }) := by
  induction todo generalizing s done junk with
  | nil =>
    have hlast : s.rx.remain = 0 := BitVec.eq_of_toNat_eq hremain
    rw [List.append_nil, payloadBuffered_of_done hpos hbuf hlast]
    exact if_pos hlast
  | cons b todo ih =>
    obtain ⟨j, junk, rfl⟩ := List.exists_cons_of_length_pos (Nat.zero_lt_of_lt hroom)
    have hmore : s.rx.remain ≠ 0 := fun h0 => by simp [h0] at hremain
    have hcount : (countByte (bufferPut b s.rx)).remain.toNat = todo.length :=
      Nat.succ_inj.mp ((countByte_remain (p := bufferPut b s.rx) hmore).trans hremain)
    have hrest := ih (s := { s with rx := countByte (bufferPut b s.rx) }) (done := done ++ [b]) hh hs
      (by simp [countByte, bufferPut, hpos]) (bufferPut_fbuf b hpos hbuf) (Nat.le_of_succ_le_succ hroom) hcount
    rw [payloadBuffered_bufferPut b (by simp [hpos]), List.append_assoc, List.singleton_append] at hrest
    rw [finishPayload, if_neg hmore, rxAll_cons b todo hh, rxByte_of_buffer b hs, hrest]

/-! ### The frame -/

section

variable {f : Frame} {code : Byte} {t : MsgType} {len : Nat}

/-- The state at the dispatch of a recognised frame of a fixed-payload type. -/
def fixedReceived (code : Byte) (f : Frame) (s : State) : State :=
  { headerReceived code f s with
    rx := { payloadBuffered f.payload (headerReceived code f s).rx with pstate := .checksumOnly } }

/-- What the dispatch of a frame of a fixed-payload type is given is the frame's payload (R167). -/
theorem dispatchPayload_fixedReceived (code : Byte) (s : State) (hwf : f.wf s.cfg = true) :
    dispatchPayload (fixedReceived code f s).rx = f.payload := by
  have hsize : (fixedReceived code f s).rx.rsize.toNat = f.payload.length := headerReceived_rsize code s hwf
  rw [dispatchPayload_of_checksumOnly rfl, hsize]
  exact List.take_left

/-- The registers at that dispatch, once the frame has ended. -/
theorem parserIdle_fixedReceived (code : Byte) (f : Frame) (s : State) :
    parserIdle (fixedReceived code f s).rx = parserAfterFixed code f s.rx := rfl

/-- A recognised frame of a fixed-payload type with a payload of that length: the payload fills FBUF and is dispatched. -/
theorem rxAll_fixedPayload (hh : s.halted = none) (hstart : atFrameStart s) (hwf : f.wf s.cfg = true)
    (hfixed : fixedLen s.cfg t = some len) (htype : typeOf s.cfg.typeCode (headerReceived code f s).rx.rtype = some t)
    (hlen : f.payload.length = len) :
    rxAll f.payload (headerPath (headerReceived code f s)) = endFrame (dispatch (fixedReceived code f s)) := by
  have ⟨hc, _, _, _, _, _, hfbuf⟩ := hstart
  have hsize := headerReceived_rsize code s hwf
  have hcap := fixedLen_le hfixed
  have hmore : (headerReceived code f s).rx.rsize ≠ 0 := fun h0 =>
    fixedLen_pos hc hfixed (by rw [← hlen, ← hsize, h0]; rfl)
  have hrest := rxAll_buffer_rest (s := { headerReceived code f s with
      rx := { (headerReceived code f s).rx with
        fpos := 0, remain := (headerReceived code f s).rx.rsize, pstate := .checksumOnly } })
    (done := []) (junk := s.rx.fbuf) (todo := f.payload) hh rfl rfl rfl (by omega) hsize
  rw [finishPayload, if_neg hmore] at hrest
  rw [headerPath_fixed (s := headerReceived code f s) htype hfixed, fixedHeader, if_pos (hsize.trans hlen)]
  exact hrest

/-- A handler halts nothing (43_rx_handlers R190). -/
theorem handle_halted (t : Option MsgType) (ok : Bool) (payload : List Byte) (s : State) :
    (handle t ok payload s).halted = s.halted := by
  cases ok with
  | false => rw [handle_bad, handleBadChecksum_eq]
  | true =>
    unfold handle
    simp only [if_true]
    split
    next => split <;> simp [handleDeviceInfo, handleWrongVersion, casMode_eq]
    next => rfl
    next => rw [handleApInfo_eq]
    next => split <;> simp [handleKeepalive_eq, handlePacket_eq]
    next => rfl

/-- A recognised frame of a fixed-payload type, received: the report of a wrong length (R201) or a wrong checksum (R202), or
the type's handler. -/
theorem receive_fixedFrame (hready : Ready .poller s) (hstart : atFrameStart s) (hf : recognisable s f)
    (hcode : code = typeCodeOf s.cfg.typeCode t) (hfixed : fixedLen s.cfg t = some len) :
    receive (frameInstr t f) s = .next (
      if f.payload.length ≠ len then
        { s with
          rx := parserAfter code f s.rx
          out.events := s.out.events ++ resyncEvents s.rx.skipped ++
            [.lengthError code (BitVec.ofNat 16 f.payload.length)] }
      else if ¬ checksumRight s.cfg code f then
        { s with
          rx := parserAfterFixed code f s.rx
          out.events := s.out.events ++ resyncEvents s.rx.skipped ++ [.crcMismatch code] }
      else endFrame (handle (some t) true f.payload (fixedReceived code f s))) := by
  have ⟨hh, _⟩ := hready
  have ⟨hc, _, _, hchain, _⟩ := hstart
  have ⟨hwf, _⟩ := hf
  have htype := headerReceived_rtype (f := f) t hc hcode
  by_cases hlen : f.payload.length = len
  case neg =>
    have hsize : ¬ (headerReceived code f s).rx.rsize.toNat = len := headerReceived_rsize code s hwf ▸ hlen
    rw [if_pos hlen]
    refine receive_of_discard t hready hstart hf hcode ?_
    rw [headerPath_fixed (s := headerReceived code f s) htype hfixed, fixedHeader, if_neg hsize]
    rfl
  case pos =>
    have hpayload := dispatchPayload_fixedReceived code s hwf
    have hend := rxAll_fixedPayload hh hstart hwf hfixed htype hlen
    rw [if_neg (not_not.mpr hlen)]
    by_cases hright : checksumRight s.cfg code f
    case pos =>
      rw [if_neg (not_not.mpr hright)]
      rw [dispatch_of_right (s := fixedReceived code f s) htype hpayload hright.symm] at hend
      exact receive_frame t hready hstart hf hcode hend ((handle_halted _ _ _ _).trans hh)
    case neg =>
      rw [if_pos hright]
      rw [endFrame_dispatch_of_wrong (s := fixedReceived code f s) hpayload (Ne.symm hright) hchain] at hend
      exact receive_frame t hready hstart hf hcode hend hh

end

end

/-! ### The statements of the three types -/

/-- Settles O36: its handler is R191's or R192's, by the version; 6 bytes are the whole payload. -/
theorem deviceInfoFrame : Obligations.DeviceInfoFrame := by
  intro s f code hready hstart hf hcode
  have ⟨⟨_, _, hlen, _⟩, _⟩ := hstart
  refine (receive_fixedFrame (t := .deviceInfo) hready hstart hf hcode (congrArg some hlen)).trans (congrArg _ ?_)
  refine ite_congr rfl (fun _ => rfl) fun hsix => ite_congr rfl (fun _ => rfl) fun _ => ?_
  have hmac : f.payload.take 6 = f.payload := List.take_of_length_le (not_not.mp hsix).le
  rw [handle_deviceInfo, handleDeviceInfo, handleWrongVersion, casMode_eq, casMode_eq, hmac]
  exact apply_ite endFrame _ _ _

/-- Settles O37: its handler is R193's. -/
theorem apCountFrame : Obligations.ApCountFrame := by
  intro s f code hready hstart hf hcode
  have ⟨⟨_, _, _, hlen, _⟩, _⟩ := hstart
  exact receive_fixedFrame (t := .scanApCount) hready hstart hf hcode (congrArg some hlen)

/-- Settles O38: its handler is R194's. -/
theorem apInfoFrame : Obligations.ApInfoFrame := by
  intro s f code hready hstart hf hcode
  have hrun := receive_fixedFrame (t := .scanApInfo) hready hstart hf hcode rfl
  rw [handle_scanApInfo, handleApInfo_eq] at hrun
  exact hrun

end Sys2Proof.Machine
end

section
/-! A recognised INVALID frame (43_rx_handlers R195): reported and discarded in a production build; in a debug build the last
header byte halts the block in the middle of the feed (42_rx_parser R170, 60_exceptions R267, R268). -/

namespace Sys2Proof.Machine

open Sys2Proof

section

variable {s : State} {b : Byte} {done later : List Byte} {rest : List Input}

/-! ### A feed that a fatal stop ends -/

/-- The first bytes of a feed in progress, where none of them halts the block. -/
theorem run_feeding_first (hi : s.inited = true) (hpoll : s.poll = none) (hend : (rxAll done s).halted = none) :
    Host.Core.run Sys2Proof.core done.length
        (feeding (done ++ later) (List.replicate done.length (goOn .poller) ++ rest) s) =
      .next (feeding later rest (rxAll done s)) := by
  induction done generalizing s with
  | nil => rfl
  | cons b done ih =>
    have hh := halted_of_rxAll hend
    rw [rxAll_cons b done hh] at hend ⊢
    have hkeeps := RxKeeps.of_rxByte b s
    exact (run_succ (step_feeding b hh hi hpoll (halted_of_rxAll hend))).trans
      (ih (hkeeps.inited.trans hi) (hkeeps.poll.trans hpoll) hend)

/-- A feed in progress, where the poller is the agent of the step already. -/
theorem feeding_of_poller {inputs : List Input} (hagent : s.env.agent = .poller) :
    feeding later inputs s = { s with tasks.feed := later, env.inputs := inputs } := by
  rw [feeding, ← hagent]

/-- The step of a feed in progress whose byte halts the block leaves that byte, and those behind it, unfed. -/
theorem step_feeding_of_fatal (hh : s.halted = none) (hi : s.inited = true) (hpoll : s.poll = none)
    (hfatal : (rxByte b s).halted ≠ none) :
    step (feeding (b :: later) (goOn .poller :: rest) s) = .next (feeding (b :: later) rest (rxByte b s)) :=
  calc step (feeding (b :: later) (goOn .poller :: rest) s)
      = resumeAgent (feeding (b :: later) rest s) := step_of_resume hh rfl
    _ = .next (pollerStep (feeding (b :: later) rest s)) := resumeAgent_poller hh hi rfl (by simp [agentBusy, feeding])
    _ = .next (feedStep (feeding (b :: later) rest s)) := by simp only [pollerStep, feeding, hpoll]
    _ = .next (fed b later (feeding (b :: later) rest s)) :=
      congrArg _ (feedStep_cons b later (feeding (b :: later) rest s))
    _ = .next (feeding (b :: later) rest (rxByte b s)) := by
      rw [fed, rxByte_feeding]
      exact congrArg _ (if_neg hfatal)

/-- A frame one of whose later bytes halts the block, received up to that byte. -/
theorem receiveFirst_of_fatal {f : Frame} (t : MsgType) (hready : Ready .poller s) (hc : configOk s.cfg)
    (hwf : f.wf s.cfg = true) (hbytes : encodeFrame s.cfg t f = done ++ b :: later) (hdone : done ≠ [])
    (hgoes : (rxAll done s).halted = none) (hfatal : (rxByte b (rxAll done s)).halted ≠ none) :
    receiveFirst (done.length + 1) (frameInstr t f) s =
      .next (feeding (b :: later) (List.replicate later.length (goOn .poller) ++ s.env.inputs)
        (rxByte b (rxAll done s))) := by
  obtain ⟨d, ds, rfl⟩ := List.exists_cons_of_ne_nil hdone
  rw [List.cons_append] at hbytes
  have ⟨hh, hi, _, _⟩ := hready
  have ⟨_, hpoll, _⟩ := idle_of_ready_poller hready
  have hkeeps := RxKeeps.of_rxByte d s
  have hkeepsAll := RxKeeps.of_rxAll (d :: ds) s
  have hlast := step_feeding_of_fatal (later := later)
    (rest := List.replicate later.length (goOn .poller) ++ s.env.inputs) hgoes (hkeepsAll.inited.trans hi)
    (hkeepsAll.poll.trans hpoll) hfatal
  rw [rxAll_cons d ds hh] at hgoes hlast ⊢
  have hfirst := step_frameInstr
    (rest := List.replicate (ds ++ b :: later).length (goOn .poller) ++ s.env.inputs) t hready hc hwf hbytes
    (halted_of_rxAll hgoes)
  have hrun := run_feeding_first (later := b :: later)
    (rest := goOn .poller :: (List.replicate later.length (goOn .poller) ++ s.env.inputs))
    (hkeeps.inited.trans hi) (hkeeps.poll.trans hpoll) hgoes
  have hinputs : List.replicate (ds ++ b :: later).length (goOn .poller) ++ s.env.inputs =
      List.replicate ds.length (goOn .poller) ++
        goOn .poller :: (List.replicate later.length (goOn .poller) ++ s.env.inputs) := by
    rw [List.length_append, List.replicate_add, List.append_assoc]
    rfl
  rw [← hinputs] at hrun
  rw [receiveFirst, frameScript, encode_frameInstr, hbytes]
  exact (run_succ hfirst).trans ((run_add hrun).trans (run_one hlast))

/-- A halted block takes no step (60_exceptions R268). -/
theorem step_of_halted {c : FatalCode} (hh : s.halted = some c) : step s = .fault (.halted c) := by
  simp only [step, hh]

/-- So a run of it that has a step to take is the fault. -/
theorem run_of_halted {n : Nat} {c : FatalCode} (hh : s.halted = some c) (hn : n ≠ 0) :
    Host.Core.run Sys2Proof.core n s = .fault (.halted c) := by
  obtain ⟨n, rfl⟩ := Nat.exists_eq_succ_of_ne_zero hn
  have hstep : Sys2Proof.core.step s = .fault (.halted c) := step_of_halted hh
  simp only [Host.Core.run, hstep]

/-! ### The bytes before the last of the header -/

/-- The intron of a recognised frame (R160). -/
theorem rxAll_recognised_intron {f : Frame} (hh : s.halted = none) (hstart : atFrameStart s) (hf : recognisable s f) :
    rxAll f.intron s = intronReceived s := by
  obtain ⟨⟨hcfg, -⟩, hs, hipos, -, hibuf, -⟩ := hstart
  obtain ⟨hwf, hintron⟩ := hf
  obtain ⟨hlen, -⟩ := Frame.wf_iff.mp hwf
  have hne : f.intron ≠ [] := List.ne_nil_of_length_pos (by omega)
  exact rxAll_intron_rest (done := []) hh hs (hintron ▸ hlen) hintron.symm hne hipos rfl (hibuf.trans hlen.symm)

/-- Header bytes that do not complete the header halt nothing (R161). -/
theorem rxAll_halted_of_header {bs : List Byte} (hh : s.halted = none) (hs : s.rx.pstate = .header)
    (hroom : s.rx.hpos + bs.length < 8) : (rxAll bs s).halted = none := by
  induction bs generalizing s with
  | nil => exact hh
  | cons b bs ih =>
    rw [List.length_cons] at hroom
    rw [rxAll_cons b bs hh, rxByte_of_header b hs, if_neg (by omega)]
    exact ih hh hs (by simp only [collectByte]; omega)

/-! ### The frame -/

section

variable {f : Frame} {code : Byte}

@[simp] theorem headerReceived_cfg (code : Byte) (f : Frame) (s : State) : (headerReceived code f s).cfg = s.cfg := rfl

/-- A prelude without its last byte, which is the last of the checksum field (30_encoding R80). -/
def preludeInit (code : Byte) (f : Frame) : List Byte :=
  f.intron ++ (headerBytes code f.var f.payload.length ++ (be32 f.checksum).take 3)

/-- The last byte of a prelude. -/
def preludeLast (f : Frame) : Byte := f.checksum.setWidth 8

/-- A prelude ends in that byte. -/
theorem framePrelude_eq (code : Byte) (f : Frame) :
    framePrelude f.intron code f.var f.payload.length f.checksum = preludeInit code f ++ [preludeLast f] := by
  simp [framePrelude, preludeInit, preludeLast, be32]

/-- `N + 7` bytes stand before it (00_scope R8). -/
theorem preludeInit_length (code : Byte) (f : Frame) : (preludeInit code f).length = f.intron.length + 7 := by
  simp [preludeInit]

/-- A recognised prelude halts nothing before its last byte. -/
theorem rxAll_preludeInit_halted (code : Byte) (hh : s.halted = none) (hstart : atFrameStart s) (hf : recognisable s f) :
    (rxAll (preludeInit code f) s).halted = none := by
  rw [preludeInit, rxAll_append, rxAll_recognised_intron hh hstart hf]
  exact rxAll_halted_of_header (s := intronReceived s) hh rfl (by simp [intronReceived])

/-- The last byte of a recognised prelude takes the path of its type. -/
theorem rxByte_preludeLast (code : Byte) (hh : s.halted = none) (hstart : atFrameStart s) (hf : recognisable s f) :
    rxByte (preludeLast f) (rxAll (preludeInit code f) s) = headerPath (headerReceived code f s) := by
  have hgoes := rxAll_preludeInit_halted code hh hstart hf
  rw [← rxAll_prelude code hh hstart hf, framePrelude_eq, rxAll_append, rxAll_cons _ _ hgoes, rxAll]

end

end

/-- Settles O42: in a debug build the run of the prelude ends in the fatal stop, which the rest of the feed meets. -/
theorem invalidFrame : Obligations.InvalidFrame := by
  intro s f code hready hstart hf hcode
  have ⟨hh, _⟩ := hready
  have ⟨hc, _⟩ := hstart
  have ⟨hwf, _⟩ := hf
  have ⟨hlen, _⟩ := Frame.wf_iff.mp hwf
  have hpath := headerPath_invalid (s := headerReceived code f s) (headerReceived_rtype (f := f) .invalid hc hcode)
  refine ⟨fun hproduction => ?production, fun hdebug => ?debug⟩
  case production =>
    rw [invalidHeader, headerReceived_cfg, if_neg (by simp [hproduction])] at hpath
    exact receive_of_discard .invalid hready hstart hf hcode hpath
  case debug =>
    rw [invalidHeader, headerReceived_cfg, if_pos hdebug] at hpath
    have hbytes : encodeFrame s.cfg .invalid f = preludeInit code f ++ preludeLast f :: f.payload := by
      rw [encodeFrame, frameBytes, framePrelude_eq, hcode, List.append_assoc]
      rfl
    have hlast := (rxByte_preludeLast code hh hstart hf).trans hpath
    have hne : preludeInit code f ≠ [] := List.ne_nil_of_length_pos (by simp [preludeInit_length])
    have hrun := receiveFirst_of_fatal .invalid hready hc hwf hbytes hne (rxAll_preludeInit_halted code hh hstart hf)
      (by rw [hlast]; simp)
    rw [hlast, preludeInit_length, hlen] at hrun
    refine ⟨?stopped, fun hpayload => ?stuck⟩
    case stopped =>
      have hunfed : (encode s.cfg (.invalid f)).drop (s.cfg.intronLen + 7) = preludeLast f :: f.payload := by
        rw [← hlen, ← preludeInit_length code f]
        exact (congrArg _ hbytes).trans List.drop_left
      rw [hunfed]
      have ⟨hagent, _⟩ := idle_of_ready_poller hready
      exact hrun.trans (congrArg _ (feeding_of_poller (by exact hagent)))
    case stuck =>
      have hlength : (encode s.cfg (.invalid f)).length = s.cfg.intronLen + 8 + f.payload.length := by
        rw [← hlen]
        exact frameBytes_length ..
      rw [receive, hlength]
      exact (run_add hrun).trans (run_of_halted rfl (by simpa using hpayload))

end Sys2Proof.Machine
end

section
/-! MODE and reception (43_rx_handlers R204): of a received byte only the dispatch of a completed frame writes it, in the
four ways of R191, R192 and R203. -/

namespace Sys2Proof.Machine

open Sys2Proof

/-! ### A byte in any parser state -/

/-- The session is untouched, or a completed frame has been dispatched; as `RestsOrDispatches`, without the parser's
invariant. -/
def LeavesSessionOrDispatches (s t : State) : Prop :=
  t.sess = s.sess ∨ ∃ p, t = endFrame (dispatch { s with rx := p })

section

variable {s : State}

@[simp] theorem startDiscard_sess (n : U16) (s : State) : (startDiscard n s).sess = s.sess := by
  rw [startDiscard_eq]

@[simp] theorem invalidHeader_sess (s : State) : (invalidHeader s).sess = s.sess := by
  unfold invalidHeader
  split
  · rfl
  · exact startDiscard_sess _ _

@[simp] theorem packetHeader_sess (s : State) : (packetHeader s).sess = s.sess := by
  unfold packetHeader openChain
  split
  · exact startDiscard_sess _ _
  · rfl

@[simp] theorem fixedHeader_sess (len : Nat) (s : State) : (fixedHeader len s).sess = s.sess := by
  unfold fixedHeader
  split
  · rfl
  · exact startDiscard_sess _ _

@[simp] theorem unknownHeader_sess (s : State) : (unknownHeader s).sess = s.sess := startDiscard_sess _ _

/-- A byte of the intron, or before it, leaves the session alone (R160). -/
@[simp] theorem seekByte_sess (b : Byte) (s : State) : (seekByte b s).sess = s.sess := by
  unfold seekByte
  split
  · split
    · rw [reportSkipped_eq]
      rfl
    · rfl
  · split <;> rfl

/-- So does a discarded byte (R165). -/
@[simp] theorem discardByte_sess (s : State) : (discardByte s).sess = s.sess := by
  unfold discardByte finishDiscard
  split <;> rfl

/-- Of the paths of a decoded header only the keepalive's dispatches (R162). -/
theorem headerPath_leavesSessionOrDispatches (p : Parser) :
    LeavesSessionOrDispatches s (headerPath { s with rx := p }) := by
  unfold headerPath
  split
  next => exact .inl (invalidHeader_sess _)
  next =>
    split
    next => exact .inr ⟨p, rfl⟩
    next => exact .inl (packetHeader_sess _)
  next => exact .inl (fixedHeader_sess _ _)
  next => exact .inl (fixedHeader_sess _ _)
  next => exact .inl (fixedHeader_sess _ _)
  all_goals exact .inl (unknownHeader_sess _)

/-- The end of a payload byte (R163, R164). -/
theorem finishPayload_leavesSessionOrDispatches (p : Parser) :
    LeavesSessionOrDispatches s (finishPayload { s with rx := p }) := by
  unfold finishPayload
  split
  · exact .inr ⟨p, rfl⟩
  · exact .inl rfl

/-- A byte of the header, by whether it is the eighth (R161). -/
theorem headerByte_leavesSessionOrDispatches (b : Byte) (s : State) : LeavesSessionOrDispatches s (headerByte b s) := by
  unfold headerByte
  split
  · exact headerPath_leavesSessionOrDispatches _
  · exact .inl rfl

/-- A received byte leaves the session alone, or completes a frame (R160 to R165). -/
theorem rxByte_leavesSessionOrDispatches (b : Byte) (s : State) : LeavesSessionOrDispatches s (rxByte b s) := by
  unfold rxByte
  split
  next => exact .inl (seekByte_sess b s)
  next => exact headerByte_leavesSessionOrDispatches b s
  next => exact finishPayload_leavesSessionOrDispatches _
  next => exact finishPayload_leavesSessionOrDispatches _
  next => exact .inl (discardByte_sess s)

/-! ### The handlers (R191, R192, R203) -/

/-- A change of MODE in reception, with its cause (R204). -/
def ModeEffect (cfg : Config) (ty : Option MsgType) (v : Byte) (before after : Mode) : Prop :=
  (ty = some .deviceInfo ∧ before = .waitInit ∧ after = if v = cfg.supportedVersion then .needAp else .wrongFirmware) ∨
    (ty = some .packet ∧ v ≠ 0 ∧ (before = .needAp ∨ before = .connectingAp) ∧ after = .running)

/-- A link flag's effect on MODE is R203's. -/
theorem sessionLinked_mode {v : Byte} {q : Session} (h : (sessionLinked v q).mode ≠ q.mode) :
    v ≠ 0 ∧ (q.mode = .needAp ∨ q.mode = .connectingAp) ∧ (sessionLinked v q).mode = .running := by
  unfold sessionLinked at h ⊢
  dsimp only at h ⊢
  split at h
  next hup =>
    obtain ⟨hv, hmode⟩ := hup
    exact ⟨hv, hmode, if_pos ⟨hv, hmode⟩⟩
  next => exact absurd rfl h

/-- A compare-and-swap that changes MODE found the old mode (10_state R23). -/
theorem casMode_mode {old new : Mode} {s : State} (h : (casMode old new s).sess.mode ≠ s.sess.mode) :
    s.sess.mode = old ∧ (casMode old new s).sess.mode = new := by
  unfold casMode at h ⊢
  split at h
  next hold => exact ⟨hold, by rw [if_pos hold]⟩
  next => exact absurd rfl h

/-- DEVICE_INFO's effects on MODE are those of R191 and R192. -/
theorem handle_deviceInfo_mode {payload : List Byte}
    (h : (handle (some .deviceInfo) true payload s).sess.mode ≠ s.sess.mode) :
    s.sess.mode = .waitInit ∧ (handle (some .deviceInfo) true payload s).sess.mode =
      if s.rx.rvar = s.cfg.supportedVersion then .needAp else .wrongFirmware := by
  rw [handle_deviceInfo] at h ⊢
  split at h
  next hversion =>
    rw [if_pos hversion, if_pos hversion]
    exact casMode_mode h
  next hversion =>
    rw [if_neg hversion, if_neg hversion]
    exact casMode_mode h

/-- A PACKET's effect on MODE is its link flag's, with a payload or without. -/
theorem handle_packet_mode (payload : List Byte) :
    (handle (some .packet) true payload s).sess.mode = (sessionLinked s.rx.rvar s.sess).mode := by
  rw [handle_packet]
  split
  · rw [handleKeepalive_eq]
  · rw [handlePacket_eq]

/-- A handler that changes MODE ran under a right checksum, and its effect is one of R204's. -/
theorem handle_changes_mode {t : Option MsgType} {ok : Bool} {payload : List Byte}
    (h : (handle t ok payload s).sess.mode ≠ s.sess.mode) :
    ok = true ∧ ModeEffect s.cfg t s.rx.rvar s.sess.mode (handle t ok payload s).sess.mode := by
  cases ok with
  | false =>
    rw [handle_bad, handleBadChecksum_eq] at h
    exact absurd rfl h
  | true =>
    refine ⟨rfl, ?_⟩
    by_cases hdevice : t = some .deviceInfo
    · subst hdevice
      exact .inl ⟨rfl, handle_deviceInfo_mode h⟩
    by_cases hpacket : t = some .packet
    · subst hpacket
      rw [handle_packet_mode] at h ⊢
      exact .inr ⟨rfl, sessionLinked_mode h⟩
    have hsame : (handle t true payload s).sess.mode = s.sess.mode := by
      unfold handle
      simp only [if_true]
      split
      next => exact absurd rfl hdevice
      next => rfl
      next => rw [handleApInfo_eq]
      next => exact absurd rfl hpacket
      next => rfl
    exact absurd hsame h

/-- A handler leaves the header as received; only the chain may go (43_rx_handlers R190). -/
theorem handle_rx_eq (t : Option MsgType) (ok : Bool) (payload : List Byte) (s : State) :
    (handle t ok payload s).rx = s.rx ∨ (handle t ok payload s).rx = { s.rx with chain := none } := by
  cases ok with
  | false =>
    rw [handle_bad, handleBadChecksum_eq]
    exact .inr rfl
  | true =>
    unfold handle
    simp only [if_true]
    split
    next => split <;> simp
    next => simp
    next => simp
    next =>
      split
      · rw [handleKeepalive_eq]
        exact .inl rfl
      · rw [handlePacket_eq]
        exact .inr rfl
    next => exact .inl rfl

/-! ### The dispatched frame -/

variable {p : Parser}

/-- The type and the variable byte are still in their registers when a completed frame has ended (R166). -/
theorem endFrame_dispatch_header (p : Parser) (s : State) :
    (endFrame (dispatch { s with rx := p })).rx.rtype = p.rtype ∧
      (endFrame (dispatch { s with rx := p })).rx.rvar = p.rvar := by
  unfold dispatch
  obtain h | h := handle_rx_eq (typeOf s.cfg.typeCode p.rtype) (checkFrame s.cfg p (dispatchPayload p)) (dispatchPayload p)
    { s with rx := p }
  all_goals
    rw [endFrame_rx, h]
    exact ⟨rfl, rfl⟩

/-- A received byte that changes MODE has one of R204's effects. -/
theorem rxByte_modeEffect (b : Byte) (h : (rxByte b s).sess.mode ≠ s.sess.mode) :
    ModeEffect s.cfg (typeOf s.cfg.typeCode (rxByte b s).rx.rtype) (rxByte b s).rx.rvar s.sess.mode
      (rxByte b s).sess.mode := by
  obtain hsess | ⟨p, hframe⟩ := rxByte_leavesSessionOrDispatches b s
  · exact absurd (congrArg Session.mode hsess) h
  · obtain ⟨htype, hvar⟩ := endFrame_dispatch_header p s
    rw [hframe] at h ⊢
    rw [htype, hvar]
    obtain ⟨-, heffect⟩ := handle_changes_mode (s := { s with rx := p }) h
    exact heffect

/-- The payload of a PACKET dispatched under a right checksum: none where the size is 0, else the packet delivered (R196,
R198). -/
theorem dispatch_packet_payload (hdone : FrameDone s.cfg p) (htype : typeOf s.cfg.typeCode p.rtype = some .packet)
    (hright : frameCrc s.cfg.crc p.ibuf (p.hbuf.take 4) (dispatchPayload p) = p.rcrc) :
    if p.rsize = 0 then dispatchPayload p = []
    else (endFrame (dispatch { s with rx := p })).out.delivered = s.out.delivered ++ [dispatchPayload p] := by
  cases hdone with
  | keepalive _ size state _ =>
    rw [if_pos size]
    exact dispatchPayload_of_header state
  | fixed len _ _ =>
    rw [htype] at len
    cases len
  | packet full _ size state chain =>
    have hpayload : dispatchPayload p = full.flatten := by simp [dispatchPayload, state, chain, chainBytes]
    rw [hpayload] at hright ⊢
    rw [if_neg size, endFrame_dispatch_packet (s := { s with rx := p }) state size htype chain, packetEnded, if_pos hright]

/-- The payload of a fixed-payload frame is what FBUF holds of it (R167). -/
theorem FrameDone.dispatchPayload_fixed {cfg : Config} {t : MsgType} {len : Nat} (hdone : FrameDone cfg p)
    (htype : typeOf cfg.typeCode p.rtype = some t) (hfixed : fixedLen cfg t = some len) :
    dispatchPayload p = p.fbuf.take p.rsize.toNat := by
  cases hdone with
  | fixed _ state _ => exact dispatchPayload_of_checksumOnly state
  | keepalive type _ _ _ =>
    cases type.symm.trans htype
    cases hfixed
  | packet _ type _ _ _ =>
    cases type.symm.trans htype
    cases hfixed

end

/-- Settles O47: the effect is that of the dispatched frame, whose registers `EndFrame` keeps as received; a DEVICE_INFO in
another mode than WAIT_INIT has none of the effects. -/
theorem modeEffectsOfReception : Obligations.ModeEffectsOfReception := by
  rintro s t b ty rfl rfl
  refine ⟨rxByte_modeEffect b, fun hdevice hmode => ?_, fun hp hchange => ?_⟩
  · by_contra hchange
    obtain ⟨-, hwait, -⟩ | ⟨hpacket, -⟩ := rxByte_modeEffect b hchange
    · exact hmode hwait
    · cases hdevice.symm.trans hpacket
  · obtain ⟨-, hsess⟩ | ⟨p, hframe, -, hdone⟩ := rxByte_rests_or_dispatches b hp
    · exact absurd (congrArg Session.mode hsess) hchange
    · rw [hframe] at hchange ⊢
      obtain ⟨hok, -⟩ := handle_changes_mode (s := { s with rx := p }) hchange
      have hright := checkFrame_iff.mp hok
      rw [endFrame_rx, dispatch_rx hdone]
      exact ⟨dispatchPayload p, hright, fun htype => hdone.dispatchPayload_fixed htype rfl,
        fun htype => dispatch_packet_payload hdone htype hright⟩

end Sys2Proof.Machine
end

section
/-! The single steps of the DMA ring and its reader (44_dma_reader R220, R222 to R224): a DMA write, a UART error, P0, P1
and P2. -/

namespace Sys2Proof.Machine

open Sys2Proof

section

variable {s : State} {c : PollCtx}

/-! ### RXHW (R220, R223) -/

/-- UART_ERROR with the interrupt enabled (R223). -/
theorem exec_uartError_of_enabled (hready : Ready .rxhw s) (hirq : s.ring.irqEn = true) :
    exec .uartError s = .next (uartErrorSeen s) :=
  (enter_of_ready hready _).trans (if_pos hirq)

/-- UART_ERROR with the interrupt disabled is no step of the spec's, and changes nothing (log entry 18). -/
theorem exec_uartError_of_disabled (hready : Ready .rxhw s) (hirq : s.ring.irqEn = false) :
    exec .uartError s = .next s :=
  (enter_of_ready hready _).trans (if_neg (by simp [hirq]))

/-! ### P0 (R222, R224) -/

/-- P0 with an error pending is the recovery, and POLL returns 0 (R224). -/
theorem pollBegin_of_error (he : s.ring.errPending = true) :
    pollBegin s = giveResult .poller (.count 0) (recover s) := if_pos he

/-- The count is less than the ring's size, so a full ring is counted as empty (20_memory R79). -/
theorem ringCount_lt {size : Nat} (rpos w : Nat) (h : 0 < size) : ringCount size rpos w < size := Nat.mod_lt _ h

/-- The count leads from the read offset to the write position, around the ring (R222). -/
theorem add_ringCount_mod {size rpos w : Nat} (hr : rpos < size) (hw : w < size) :
    (rpos + ringCount size rpos w) % size = w :=
  calc (rpos + ringCount size rpos w) % size
      = (rpos + (w + size - rpos)) % size := by rw [ringCount, Nat.mod_eq_of_lt hr, Nat.add_mod_mod]
    _ = (w + size) % size := by rw [Nat.add_sub_cancel' (by omega)]
    _ = w := by rw [Nat.add_mod_right, Nat.mod_eq_of_lt hw]

/-! ### P1 and P2 (R222) -/

/-- The poller with a POLL in progress takes that POLL's next step. -/
theorem resumeAgent_poll (hh : s.halted = none) (hi : s.inited = true) (ha : s.env.agent = .poller)
    (hpoll : s.poll = some c) : resumeAgent s = .next (if c.j < c.n then pollFeed c s else pollEnd c s) := by
  rw [resumeAgent_poller hh hi ha (by simp [agentBusy, ha, hpoll])]
  simp only [pollerStep, hpoll]

/-- P1 with a byte that does not halt the block: it is received, and the index moves. -/
theorem pollFeed_of_running (h : (rxByte (pollByteAt s c.j) s).halted = none) :
    pollFeed c s = { rxByte (pollByteAt s c.j) s with poll := some { c with j := c.j + 1 } } := if_neg (by simp [h])

/-- P1 with a byte that halts the block: the step ends before the index moves (60_exceptions R267). -/
theorem pollFeed_of_fatal (h : (rxByte (pollByteAt s c.j) s).halted.isSome = true) :
    pollFeed c s = rxByte (pollByteAt s c.j) s := if_pos h

end

/-- Settles O49: the write takes place at WPOS, and a read after it is that of any memory. -/
theorem dmaWriteStoresOneByte : Obligations.DmaWriteStoresOneByte := by
  intro s b hready hw
  exact ⟨exec_dmaWrite b hready hw, ringRead_write_same _ _ _, fun _ hne => ringRead_write_other _ b hne⟩

/-- Settles O54: with the interrupt enabled the bit is set whatever it was. -/
theorem uartErrorIsRecorded : Obligations.UartErrorIsRecorded :=
  fun _ hready => ⟨exec_uartError_of_enabled hready, exec_uartError_of_disabled hready⟩

/-- Settles O50: the recovery, or the snapshot, whose count is `ringCount`. -/
theorem pollBeginsWithRecoveryOrSnapshot : Obligations.PollBeginsWithRecoveryOrSnapshot := by
  intro s hready
  rw [exec_poll hready]
  refine ⟨fun he => ?recovery, fun he hw hr => ?snapshot⟩
  case recovery =>
    rw [pollBegin_of_error he]
    rfl
  case snapshot =>
    exact ⟨ringCount s.cfg.ringSize s.ring.rpos s.ring.wpos, ringCount_lt _ _ (Nat.zero_lt_of_lt hw),
      add_ringCount_mod hr hw, congrArg _ (pollBegin_of_no_error he)⟩

/-- Settles O51: P1 by whether its byte halts the block, and P2. -/
theorem pollFeedsThenCommits : Obligations.PollFeedsThenCommits := by
  intro s c hh hi ha hpoll
  rw [resumeAgent_poll hh hi ha hpoll]
  refine ⟨?feeds, fun hdone => ?commits⟩
  case feeds =>
    rintro hleft t rfl
    rw [if_pos hleft]
    exact ⟨fun hnext => congrArg _ (pollFeed_of_running hnext), fun hfatal => congrArg _ (pollFeed_of_fatal hfatal)⟩
  case commits =>
    rw [if_neg (Nat.not_lt.mpr hdone)]
    rfl

end Sys2Proof.Machine
end

section
/-! A POLL with no DMA write during it (44_dma_reader R222, R225): it feeds the ring bytes from the read offset on, one a step,
which comes to `rxAll` of them; and what fewer than RING_SIZE DMA writes left there are the written bytes. -/

namespace Sys2Proof.Machine

open Sys2Proof

section

variable {s : State} {rest : List Input}

/-! ### What the ring holds after DMA writes (R220) -/

/-- Going less than a lap around the ring leads somewhere else. -/
theorem add_mod_ne_self {size w k : Nat} (hw : w < size) (hpos : k ≠ 0) (hk : k < size) : (w + k) % size ≠ w := by
  intro h
  have hlap : w + k ≡ w + 0 [MOD size] := by simpa [Nat.ModEq, Nat.mod_eq_of_lt hw] using h
  have hzero : k % size = 0 % size := Nat.ModEq.add_left_cancel' w hlap
  rw [Nat.mod_eq_of_lt hk, Nat.zero_mod] at hzero
  exact hpos hzero

/-- A ring byte that none of the writes reaches reads as before. -/
theorem ringRead_ringAfter_of_missed {size w a : Nat} {bs : List Byte} (m : Memory) (hw : w < size)
    (h : ∀ i < bs.length, (w + i) % size ≠ a) : ringRead (ringAfter size w bs m) a = ringRead m a := by
  induction bs generalizing w m with
  | nil => rfl
  | cons b bs ih =>
    have hfirst : a ≠ w := by simpa [Nat.mod_eq_of_lt hw] using (h 0 (by simp)).symm
    have hrest : ∀ i < bs.length, ((w + 1) % size + i) % size ≠ a := by
      intro i hi
      rw [Nat.mod_add_mod, Nat.add_assoc, Nat.add_comm 1]
      exact h (i + 1) (by simpa using hi)
    rw [ringAfter, ih _ (Nat.mod_lt _ (Nat.zero_lt_of_lt hw)) hrest, ringRead_write_other m b hfirst]

/-- As many bytes as the ring has, or fewer, are all there after their writes, in order. -/
theorem ringRead_ringAfter {size w : Nat} {bs : List Byte} (m : Memory) (hw : w < size) (hlen : bs.length ≤ size) :
    (List.range bs.length).map (fun i => ringRead (ringAfter size w bs m) ((w + i) % size)) = bs := by
  induction bs generalizing w m with
  | nil => rfl
  | cons b bs ih =>
    have hlen' : bs.length + 1 ≤ size := hlen
    have hnext : (w + 1) % size < size := Nat.mod_lt _ (Nat.zero_lt_of_lt hw)
    have hmissed : ∀ i < bs.length, ((w + 1) % size + i) % size ≠ w := by
      intro i hi
      rw [Nat.mod_add_mod, Nat.add_assoc]
      exact add_mod_ne_self hw (by omega) (by omega)
    have hfirst : ringRead (ringAfter size w (b :: bs) m) ((w + 0) % size) = b := by
      rw [Nat.add_zero, Nat.mod_eq_of_lt hw, ringAfter, ringRead_ringAfter_of_missed _ hnext hmissed, ringRead_write_same]
    have hrest := ih (m.write w b) hnext (by omega)
    simp only [Nat.mod_add_mod, Nat.add_assoc, Nat.add_comm 1] at hrest
    rw [List.length_cons, List.range_succ_eq_map, List.map_cons, List.map_map, hfirst]
    exact congrArg _ hrest

/-! ### A POLL in progress (R222) -/

/-- The ring bytes that P1 feeds at n indices from j on. -/
def pollBytes (s : State) (j n : Nat) : List Byte := (List.range' j n).map (pollByteAt s)

theorem pollBytes_succ (s : State) (j n : Nat) : pollBytes s j (n + 1) = pollByteAt s j :: pollBytes s (j + 1) n := rfl

/-- A received byte changes neither the ring nor the read offset. -/
theorem pollByteAt_rxByte (b : Byte) (s : State) : pollByteAt (rxByte b s) = pollByteAt s := by
  have hkeeps := RxKeeps.of_rxByte b s
  funext j
  rw [pollByteAt, hkeeps.ring, hkeeps.cfg, pollByteAt]

theorem pollBytes_rxByte (b : Byte) (s : State) (j n : Nat) : pollBytes (rxByte b s) j n = pollBytes s j n := by
  rw [pollBytes, pollByteAt_rxByte, pollBytes]

/-- A POLL in progress: its snapshot, the schedule, and the poller the agent of the step. -/
def polling (c : PollCtx) (inputs : List Input) (s : State) : State :=
  { s with poll := some c, env.inputs := inputs, env.agent := .poller }

/-- A received byte reads neither the poll nor the schedule. -/
theorem rxByte_polling (b : Byte) (c : PollCtx) (inputs : List Input) (s : State) :
    rxByte b (polling c inputs s) = polling c inputs (rxByte b s) :=
  calc rxByte b (polling c inputs s)
      = withOuter { outerOf s with poll := some c, inputs := inputs, agent := .poller } (rxByte b s) :=
        rxByte_outer { outerOf s with poll := some c, inputs := inputs, agent := .poller } s b
    _ = polling c inputs (rxByte b s) := by rw [← outerOf_rxByte s b]; rfl

/-- P1 of a POLL in progress. -/
theorem pollFeed_polling {c : PollCtx} (hnext : (rxByte (pollByteAt s c.j) s).halted = none) :
    pollFeed c (polling c rest s) = polling { c with j := c.j + 1 } rest (rxByte (pollByteAt s c.j) s) := by
  have hbyte : rxByte (pollByteAt (polling c rest s) c.j) (polling c rest s) =
      polling c rest (rxByte (pollByteAt s c.j) s) := rxByte_polling _ c rest s
  rw [pollFeed_of_running (by rw [hbyte]; exact hnext), hbyte]
  rfl

/-- A step of a POLL in progress. -/
theorem step_polling {c : PollCtx} (hh : s.halted = none) (hi : s.inited = true) :
    step (polling c (goOn .poller :: rest) s) =
      .next (if c.j < c.n then pollFeed c (polling c rest s) else pollEnd c (polling c rest s)) :=
  (step_of_resume (s := polling c (goOn .poller :: rest) s) hh rfl).trans
    (resumeAgent_poll (s := polling c rest s) hh hi rfl rfl)

/-- A POLL in progress with k bytes left, run until it has fed them: it comes to those bytes of the ring fed in one go. -/
theorem run_polling {w j k n : Nat} (hn : j + k = n) (hi : s.inited = true)
    (hend : (rxAll (pollBytes s j k) s).halted = none) :
    Host.Core.run Sys2Proof.core k (polling { w, j, n } (List.replicate k (goOn .poller) ++ rest) s) =
      .next (polling { w, j := n, n } rest (rxAll (pollBytes s j k) s)) := by
  induction k generalizing s j with
  | zero =>
    obtain rfl : j = n := hn
    rfl
  | succ k ih =>
    have hh := halted_of_rxAll hend
    rw [pollBytes_succ, rxAll_cons _ _ hh, ← pollBytes_rxByte (pollByteAt s j)] at hend ⊢
    have hleft : j < n := by omega
    have hfirst : step (polling { w, j, n } (List.replicate (k + 1) (goOn .poller) ++ rest) s) =
        .next (polling { w, j := j + 1, n } (List.replicate k (goOn .poller) ++ rest) (rxByte (pollByteAt s j) s)) := by
      rw [List.replicate_succ, List.cons_append, step_polling hh hi, if_pos hleft, pollFeed_polling (halted_of_rxAll hend)]
    rw [run_succ hfirst]
    exact ih (by omega) ((RxKeeps.of_rxByte _ s).inited.trans hi) hend

/-! ### A whole POLL -/

/-- A POLL is over since `s`: the read offset stands at `w`, and the count has been returned. -/
def polled (w n : Nat) (inputs : List Input) (s : State) : State :=
  { s with ring.rpos := w, poll := none, tasks.returns := s.tasks.returns ++ [(.poller, .count n)]
           env.inputs := inputs, env.agent := .poller }

/-- A POLL of an idle poller, with no error pending and no other agent between its steps, comes to the ring bytes up to its
snapshot fed in one go. -/
theorem run_pollScript {n : Nat} (hi : s.inited = true) (hpoll : s.poll = none) (hfeed : s.tasks.feed = [])
    (he : s.ring.errPending = false) (hn : ringCount s.cfg.ringSize s.ring.rpos s.ring.wpos = n)
    (hend : (rxAll (pollBytes s 0 n) s).halted = none) (hin : s.env.inputs = pollScript s.cfg n ++ rest) :
    Host.Core.run Sys2Proof.core (pollScript s.cfg n).length s =
      .next (polled s.ring.wpos n rest (rxAll (pollBytes s 0 n) s)) := by
  have hbegin : step s = .next (polling { w := s.ring.wpos, j := 0, n := n }
      (List.replicate n (goOn .poller) ++ goOn .poller :: rest) s) := by
    rw [pollScript, List.cons_append, List.replicate_succ', List.append_assoc] at hin
    rw [step_poll (halted_of_rxAll hend) hi hpoll hfeed hin, pollBegin_of_no_error, ← hn]
    · rfl
    · exact he
  have hbytes := run_polling (rest := goOn .poller :: rest) (w := s.ring.wpos) (Nat.zero_add n) hi hend
  have hcommit := step_polling (rest := rest) (c := { w := s.ring.wpos, j := n, n := n }) hend
    ((RxKeeps.of_rxAll _ s).inited.trans hi)
  rw [if_neg (Nat.lt_irrefl n)] at hcommit
  rw [show (pollScript s.cfg n).length = n + 1 + 1 by simp [pollScript], run_succ hbegin, run_add hbytes]
  exact run_one hcommit

/-! ### DMA writes before a POLL (R225) -/

/-- DMA writes have taken place since `s`; with the schedule and the agent of the step. -/
def written (bs : List Byte) (inputs : List Input) (a : Agent) (s : State) : State :=
  { s with ring := ringWritten s.cfg.ringSize bs s.ring, env.inputs := inputs, env.agent := a }

/-- Bytes fed one after the other neither read nor write the ring. -/
theorem rxAll_written (xs bs : List Byte) (inputs : List Input) (a : Agent) (s : State) :
    rxAll xs (written bs inputs a s) = written bs inputs a (rxAll xs s) := by
  have hkeeps := RxKeeps.of_rxAll xs s
  calc rxAll xs (written bs inputs a s)
      = withOuter { outerOf s with ring := ringWritten s.cfg.ringSize bs s.ring, inputs := inputs, agent := a }
          (rxAll xs s) := rxAll_outer (outerOf (written bs inputs a s)) s xs
    _ = written bs inputs a (rxAll xs s) := by rw [← outerOf_rxAll s xs, ← hkeeps.cfg, ← hkeeps.ring]; rfl

section

variable {bs : List Byte} {inputs : List Input} {a : Agent}

/-- The writes moved WPOS ahead of the read offset by their number (R222). -/
theorem ringCount_written (hw : s.ring.wpos < s.cfg.ringSize) (hr : s.ring.rpos = s.ring.wpos)
    (hlen : bs.length < s.cfg.ringSize) :
    ringCount s.cfg.ringSize s.ring.rpos (written bs inputs a s).ring.wpos = bs.length := by
  rw [written, ringWritten_wpos, hr, ringCount_advance bs.length hw, Nat.mod_eq_of_lt hlen]

/-- What a POLL finds in a ring read up to date after fewer writes than a lap. -/
theorem pollBytes_written (hw : s.ring.wpos < s.cfg.ringSize) (hr : s.ring.rpos = s.ring.wpos)
    (hlen : bs.length < s.cfg.ringSize) : pollBytes (written bs inputs a s) 0 bs.length = bs := by
  have hread : pollByteAt (written bs inputs a s) =
      fun i => ringRead (ringAfter s.cfg.ringSize s.ring.wpos bs s.ring.mem) ((s.ring.wpos + i) % s.cfg.ringSize) := by
    funext i
    rw [pollByteAt, written, ringWritten_rpos, hr]
    rfl
  rw [pollBytes, ← List.range_eq_range', hread]
  exact ringRead_ringAfter s.ring.mem hw hlen.le

end

end

/-- Settles O52: the writes leave the bytes in the ring from the read offset on, the snapshot counts them, and the POLL feeds
them. -/
theorem pollFeedsExactlyTheReceivedBytes : Obligations.PollFeedsExactlyTheReceivedBytes := by
  rintro s u bs rest hh hi hpoll hfeed he - hw hr hlen rfl hend hin
  rw [List.append_assoc] at hin
  obtain ⟨a, hwrites⟩ : ∃ a, Host.Core.run Sys2Proof.core bs.length s =
      .next (written bs (pollScript s.cfg bs.length ++ rest) a s) := run_dmaScript hh hi hw hin
  have hfed (inputs : List Input) :
      rxAll (pollBytes (written bs inputs a s) 0 bs.length) (written bs inputs a s) = written bs inputs a (rxAll bs s) := by
    rw [pollBytes_written hw hr hlen, rxAll_written]
  have hread := run_pollScript (s := written bs (pollScript s.cfg bs.length ++ rest) a s) hi hpoll hfeed he
    (ringCount_written hw hr hlen) (by rw [hfed]; exact hend) rfl
  have hkeeps := RxKeeps.of_rxAll bs s
  rw [List.length_append, dmaScript, List.length_map, run_add hwrites]
  refine hread.trans ?_
  rw [hfed, polled, written, hkeeps.cfg, hkeeps.ring, ← hkeeps.returns, ← hpoll, ← hkeeps.poll]
  rfl

end Sys2Proof.Machine
end

section
/-! The control operations (45_control): INIT and RESET as one record update each, their wait for the lock and the poll, and the
accesses to MODE and to the status registers. -/

namespace Sys2Proof.Machine

open Sys2Proof

section

variable {s : State} {k : Nat}

/-! ### Mode codes (30_encoding R88) -/

/-- A mode's code is read back as the mode. -/
@[simp] theorem modeOfCode_modeCode (m : Mode) : modeOfCode (modeCode m) = some m := by
  cases m <;> rfl

/-- The code that is read as a mode is that mode's. -/
theorem modeCode_of_modeOfCode {b : Byte} {m : Mode} (h : modeOfCode b = some m) : modeCode m = b := by
  unfold modeOfCode at h
  split at h
  case h_10 => cases h
  all_goals
    next hcode =>
      cases h
      exact (BitVec.eq_of_toNat_eq hcode).symm

/-- The illegal codes are those above 8. -/
theorem modeOfCode_eq_none_iff {b : Byte} : modeOfCode b = none ↔ 8 < b.toNat := by
  unfold modeOfCode
  split
  case h_10 =>
    simp only [imp_false, true_iff] at *
    omega
  all_goals
    next hcode => simp [hcode]

/-- Every code up to 8 is a mode's. -/
theorem exists_modeCode_eq {b : Byte} (h : b.toNat ≤ 8) : ∃ m, modeCode m = b := by
  have hsome : modeOfCode b ≠ none := fun hnone => Nat.not_lt.mpr h (modeOfCode_eq_none_iff.mp hnone)
  obtain ⟨m, hm⟩ := Option.ne_none_iff_exists'.mp hsome
  exact ⟨m, modeCode_of_modeOfCode hm⟩

/-- Different modes have different codes. -/
theorem modeCode_inj {m n : Mode} : modeCode m = modeCode n ↔ m = n := by
  refine ⟨fun h => ?_, congrArg modeCode⟩
  have hread := congrArg modeOfCode h
  simpa using hread

/-! ### MODE_CAS (R242) -/

/-- With two legal codes. -/
theorem modeCas_of_codes (old new : Mode) (s : State) :
    modeCas (modeCode old) (modeCode new) s =
      { s with sess.mode := if s.sess.mode = old then new else s.sess.mode
               tasks.returns := s.tasks.returns ++ [(s.env.agent, .bool (decide (s.sess.mode = old)))] } := by
  simp only [modeCas, modeOfCode_modeCode, casMode_eq]
  rfl

/-- With an illegal code (60_exceptions R266). -/
theorem modeCas_of_illegal {old new : Byte} (h : 8 < old.toNat ∨ 8 < new.toNat) (s : State) :
    modeCas old new s = raiseFatal .impossibleMode s := by
  rw [← modeOfCode_eq_none_iff, ← modeOfCode_eq_none_iff] at h
  unfold modeCas
  split
  next ho hn => simp [ho, hn] at h
  next => rfl

/-- MODE_CAS is one step. -/
theorem exec_modeCas (old new : Byte) (hready : Ready .caller s) : exec (.modeCas old new) s = .next (modeCas old new s) :=
  enter_of_ready hready _

/-! ### Where INIT and RESET have their step (R240, R241) -/

theorem resetEnabled_iff : resetEnabled s = true ↔ s.tx.lock = none ∧ s.poll = none := by
  simp [resetEnabled]

theorem initEnabled_iff : initEnabled s = true ↔ (s.inited = true → s.tx.lock = none ∧ s.poll = none) := by
  cases hi : s.inited <;> simp [initEnabled, hi]

/-- After the first INIT both have the same condition. -/
theorem initEnabled_of_inited (hi : s.inited = true) : initEnabled s = resetEnabled s := by
  simp [initEnabled, resetEnabled, hi]

/-- The lock or a POLL is in the way. -/
theorem resetEnabled_of_blocked (h : s.tx.lock ≠ none ∨ s.poll ≠ none) : resetEnabled s = false := by
  rw [← Bool.not_eq_true, resetEnabled_iff, not_and_or]
  exact h

/-- INIT is one step, its effect or the beginning of its wait. -/
theorem exec_init (hh : s.halted = none) (ha : agentAllowed s.cfg .caller s.env.agent = true) (hidle : agentBusy s = false) :
    exec .init s = .next (if initEnabled s then initNow s else setCallerOp (callerIndex s) (some .initWait) s) := by
  change execInit s = _
  exact enterAlways_of_ready hh ha hidle _

/-- A later INIT runs where a RESET would. -/
theorem exec_init_of_inited (hready : Ready .caller s) :
    exec .init s = .next (if resetEnabled s then initNow s else setCallerOp (callerIndex s) (some .initWait) s) := by
  obtain ⟨hh, hi, ha, hidle⟩ := hready
  rw [exec_init hh ha hidle, initEnabled_of_inited hi]

/-- RESET is one step, its effect or the beginning of its wait. -/
theorem exec_reset (hready : Ready .caller s) :
    exec .reset s = .next (if resetEnabled s then resetNow s else setCallerOp (callerIndex s) (some .resetWait) s) :=
  enter_of_ready hready _

/-- A caller of the configuration with nothing in progress begins an operation. -/
theorem ready_caller_of_idle (hh : s.halted = none) (hi : s.inited = true) (ha : s.env.agent = .caller k)
    (hk : k < s.cfg.nCallers) (hop : callerOp s k = none) : Ready .caller s := by
  refine ⟨hh, hi, ?_, ?_⟩
  · simp [agentAllowed, agentExists, ha, hk]
  · simp [agentBusy, ha, hop]

/-! ### The effects of INIT and RESET, as one record update -/

/-- The end of a session: nothing before the first INIT (R240). -/
theorem endSession_eq (s : State) :
    endSession s =
      { s with
        rx.chain := if s.inited = true then none else s.rx.chain
        out.netifLink := s.out.netifLink ++ (if s.inited = true ∧ s.sess.associated = true then [.linkDown] else [])
        tasks.released := s.tasks.released ++ (if s.inited = true then s.rx.chain.toList else []) } := by
  unfold endSession
  split
  next hi => simp [releaseChain_eq, noteLinkDown_eq, hi]
  next hi =>
    simp only [if_neg (mt And.left hi), List.append_nil]

/-- The intron after a RESET and the draws it leaves (R241). -/
theorem resetIntron_eq (s : State) :
    resetIntron s =
      { s with
        sess.intron := match s.cfg.intronOnReset with
          | .keep => s.sess.intron
          | .rerandomize => (drawIntron s.cfg s.env.draws).1
        env.draws := match s.cfg.intronOnReset with
          | .keep => s.env.draws
          | .rerandomize => (drawIntron s.cfg s.env.draws).2 } := by
  unfold resetIntron
  cases s.cfg.intronOnReset <;> rfl

end

/-- Settles O55: where INIT is enabled its step is `initNow`, the end of the session before it and then the fresh registers. -/
theorem initStartsASession : Obligations.InitStartsASession := by
  intro s newI d hh ha hidle hfree hdraw
  rw [exec_init hh ha hidle, if_pos (initEnabled_iff.mpr hfree), initNow, endSession_eq, freshSession, hdraw]
  rfl

/-- Settles O56: where RESET is enabled its step is `resetNow`, the parser, the association and the intron in turn. -/
theorem resetLeavesRingAndFlagsAlone : Obligations.ResetLeavesRingAndFlagsAlone := by
  intro s newI d hready hlock hpoll hdraw
  rw [exec_reset hready, if_pos (resetEnabled_iff.mpr ⟨hlock, hpoll⟩), resetNow, resetParser, releaseChain_eq,
    dropAssociation_eq, resetIntron_eq, hdraw]
  rfl

/-- Settles O57: blocked, both operations begin their wait and a waiting caller's step is idle; with both free, the waiting
caller's step is the operation that an idle caller would begin. -/
theorem initAndResetWaitForLockAndPoll : Obligations.InitAndResetWaitForLockAndPoll := by
  intro s k hh hi ha hk
  refine ⟨fun hblocked hop => ?begin, fun hblocked hop => ?wait, fun hlock hpoll hlt u hu => ?run⟩
  case begin =>
    have hready := ready_caller_of_idle hh hi ha hk hop
    rw [exec_init_of_inited hready, exec_reset hready, resetEnabled_of_blocked hblocked, callerIndex_of_agent ha]
    exact ⟨rfl, rfl⟩
  case wait =>
    obtain hop | hop := hop <;>
      simp [resumeAgent_caller hh hi ha hop, callerStep, initEnabled_of_inited hi, resetEnabled_of_blocked hblocked]
  case run =>
    obtain rfl : u = setCallerOp k none s := hu
    have hready : Ready .caller (setCallerOp k none s) := ready_caller_of_idle hh hi ha hk (callerOp_setCallerOp none hlt)
    have hbefore : resetEnabled s = true := resetEnabled_iff.mpr ⟨hlock, hpoll⟩
    have hafter : resetEnabled (setCallerOp k none s) = true := hbefore
    refine ⟨fun hop => ?_, fun hop => ?_⟩
    · rw [resumeAgent_caller hh hi ha hop, callerStep, initEnabled_of_inited hi, if_pos hbefore,
        exec_init_of_inited hready, if_pos hafter]
    · rw [resumeAgent_caller hh hi ha hop, callerStep, if_pos hbefore, exec_reset hready, if_pos hafter]

/-- Settles O58: legal codes are the codes of modes, which a comparison of codes compares; the others are fatal. -/
theorem modeCasComparesAndSwaps : Obligations.ModeCasComparesAndSwaps := by
  intro s old new hready
  rw [exec_modeCas old new hready]
  refine ⟨fun hold hnew => ?legal, fun hillegal => ?illegal⟩
  case legal =>
    obtain ⟨o, rfl⟩ := exists_modeCode_eq hold
    obtain ⟨n, rfl⟩ := exists_modeCode_eq hnew
    refine ⟨n, rfl, ?_⟩
    simp only [modeCas_of_codes, modeCode_inj]
  case illegal =>
    rw [modeCas_of_illegal hillegal]
    rfl

/-- Settles O59: each read begins under its conditions, and its body only gives the register. -/
theorem statusReadsReturnTheirRegister : Obligations.StatusReadsReturnTheirRegister := by
  intro s hready
  exact ⟨enter_of_ready hready _, enter_of_ready hready _, enter_of_ready hready _, enter_of_ready hready _⟩

/-- Settles O60: the body gives the register's value from before the step to the agent and clears it. -/
theorem destructiveReadsClearWhatTheyReturn : Obligations.DestructiveReadsClearWhatTheyReturn := by
  refine ⟨fun s hready => ?tick, fun s hready => ?take⟩
  case tick => exact enter_of_ready hready _
  case take => exact enter_of_ready hready _

end Sys2Proof.Machine
end

section
/-! The exceptions of 60_exceptions: what a fatal stop, a missing INIT and a wrong agent answer, for every instruction at
once. Every instruction but INIT is `enter` of its agent column, INIT is `enterAlways` of its own, and the rest is about
those two. -/

namespace Sys2Proof.Machine

open Sys2Proof

section

variable {s : State} {i : Instr} {c : AgentClass}

/-! ### The conditions of `enterAlways` that fail -/

/-- As `enter_halted`, for the one operation that needs no INITED (R268). -/
theorem enterAlways_halted {code : FatalCode} (hh : s.halted = some code) (body : State → Answer) :
    enterAlways c s body = .fault (.halted code) := by
  simp [enterAlways, hh]

/-- An agent that the row does not name is refused (R276). -/
theorem enterAlways_wrongAgent (hh : s.halted = none) (ha : agentAllowed s.cfg c s.env.agent = false)
    (body : State → Answer) : enterAlways c s body = .refused .wrongAgent := by
  simp [enterAlways, hh, ha]

/-- Once INITED is set it is no condition any more, halted or not. -/
theorem enter_of_inited (hi : s.inited = true) (body : State → Answer) : enter c s body = enterAlways c s body := by
  cases hh : s.halted <;> simp [enter, enterAlways, hh, hi]

/-! ### Every instruction begins under its row's conditions -/

/-- Every instruction but INIT begins by `enter`, under the agent column of its row (30_encoding R90). -/
theorem exec_eq_enter (hne : i ≠ .init) (s : State) : ∃ body, exec i s = enter (agentColumn i) s body := by
  cases i
  case init => exact absurd rfl hne
  all_goals exact ⟨_, rfl⟩

/-- INIT begins by `enterAlways`, under the agent column of its row (30_encoding R90). -/
theorem exec_init_eq_enterAlways (s : State) : ∃ body, exec .init s = enterAlways (agentColumn .init) s body := by
  change ∃ body, execInit s = enterAlways .caller s body
  exact ⟨_, rfl⟩

/-- In an initialised block INIT begins as every other instruction does. -/
theorem exec_eq_enterAlways_of_inited (hi : s.inited = true) (i : Instr) :
    ∃ body, exec i s = enterAlways (agentColumn i) s body := by
  by_cases hne : i = .init
  · subst hne
    exact exec_init_eq_enterAlways s
  · obtain ⟨body, hbody⟩ := exec_eq_enter hne s
    exact ⟨body, hbody.trans (enter_of_inited hi body)⟩

/-! ### A halted block (R268) -/

/-- A halted block begins no instruction, INIT included. -/
theorem exec_of_halted {code : FatalCode} (hh : s.halted = some code) (i : Instr) :
    exec i s = .fault (.halted code) := by
  by_cases hne : i = .init
  · subst hne
    obtain ⟨body, hbody⟩ := exec_init_eq_enterAlways s
    exact hbody.trans (enterAlways_halted hh body)
  · obtain ⟨body, hbody⟩ := exec_eq_enter hne s
    exact hbody.trans (enter_halted hh body)

/-- A halted block continues nothing. -/
theorem resumeAgent_of_halted {code : FatalCode} (hh : s.halted = some code) :
    resumeAgent s = .fault (.halted code) := by
  simp only [resumeAgent, hh]

end

/-- Settles O6: an instruction, a continuation and a step each look at HALTED first. -/
theorem haltedBlockTakesNoStep : Obligations.HaltedBlockTakesNoStep := by
  intro i s code hh
  exact ⟨exec_of_halted hh i, resumeAgent_of_halted hh, step_of_halted hh⟩

/-- Settles O7: every instruction but INIT begins by `enter`, which asks for INITED before it looks at the agent. -/
theorem onlyInitBeforeInit : Obligations.OnlyInitBeforeInit := by
  intro i s hh hi hne
  obtain ⟨body, hbody⟩ := exec_eq_enter hne s
  exact hbody.trans (enter_notInitialised hh hi body)

/-- Settles O8: in an initialised block every instruction, INIT too, begins by `enterAlways` of its row's agent column. -/
theorem wrongAgentIsRefused : Obligations.WrongAgentIsRefused := by
  intro i s hh hi ha
  obtain ⟨body, hbody⟩ := exec_eq_enterAlways_of_inited hi i
  exact hbody.trans (enterAlways_wrongAgent hh ha body)

end Sys2Proof.Machine
end

section
/-! HALTED through every operation of the block (60_exceptions R266): which code an operation can raise. Reception raises F2
alone and MODE_CAS F3 alone; of the transmit framer's labelled steps only S2 raises F1, and the invariant shuts that out, for
no completion is outstanding there (70_reset_and_hazards R301). -/

namespace Sys2Proof.Machine

open Sys2Proof

/-- No fatal stop, but perhaps one with this code. -/
def HaltsOnlyBy (c : FatalCode) (s t : State) : Prop := t.halted = s.halted ∨ t.halted = some c

/-- A running block is stopped with no other code. -/
theorem HaltsOnlyBy.ne_of_ne {c c' : FatalCode} {s t : State} (h : HaltsOnlyBy c s t) (hh : s.halted = none) (hc : c ≠ c') :
    t.halted ≠ some c' := by
  obtain hsame | hraised := h
  · simp [hsame, hh]
  · simpa [hraised] using hc

/-- The rest of a step that a fatal stop may have ended, if that rest stops nothing. -/
theorem HaltsOnlyBy.after_unlessHalted {c : FatalCode} {s u : State} {rest : State → State} (h : HaltsOnlyBy c s u)
    (hrest : (rest u).halted = u.halted) : HaltsOnlyBy c s (unlessHalted rest u) := by
  unfold unlessHalted
  split
  · exact h
  · unfold HaltsOnlyBy
    rwa [hrest]

section

variable (s : State)

/-! ### Control -/

@[simp] theorem initNow_halted : (initNow s).halted = s.halted := by
  rw [initNow, endSession_eq, freshSession]

@[simp] theorem resetNow_halted : (resetNow s).halted = s.halted := by
  rw [resetNow, resetIntron_eq, dropAssociation_eq, resetParser, releaseChain_eq]

/-- MODE_CAS raises F3 alone (45_control R242). -/
theorem modeCas_halts (old new : Byte) : HaltsOnlyBy .impossibleMode s (modeCas old new s) := by
  unfold modeCas
  split
  · left
    rw [giveResult_halted, casMode_eq]
  · exact .inr rfl

/-! ### Reception -/

@[simp] theorem seekByte_halted (b : Byte) : (seekByte b s).halted = s.halted := by
  unfold seekByte
  split
  · split
    · rw [beginHeader_reportSkipped_matchByte]
    · rfl
  · split <;> rfl

@[simp] theorem packetHeader_halted : (packetHeader s).halted = s.halted := by
  unfold packetHeader openChain
  split
  · exact startDiscard_halted _
  · rfl

@[simp] theorem fixedHeader_halted (len : Nat) : (fixedHeader len s).halted = s.halted := by
  unfold fixedHeader
  split
  · rfl
  · exact startDiscard_halted _

@[simp] theorem unknownHeader_halted : (unknownHeader s).halted = s.halted := startDiscard_halted _

/-- Of the paths of a decoded header only INVALID's stops the block (42_rx_parser R162, 43_rx_handlers R195). -/
theorem headerPath_halts : HaltsOnlyBy .invalidMessage s (headerPath s) := by
  unfold headerPath
  split
  next =>
    unfold invalidHeader
    split
    · exact .inr rfl
    · exact .inl (startDiscard_halted _)
  next =>
    split
    · exact .inl (handle_halted _ _ _ s)
    · exact .inl (packetHeader_halted s)
  next => exact .inl (fixedHeader_halted s _)
  next => exact .inl (fixedHeader_halted s _)
  next => exact .inl (fixedHeader_halted s _)
  all_goals exact .inl (unknownHeader_halted s)

theorem finishPayload_halted : (finishPayload s).halted = s.halted := by
  unfold finishPayload
  split
  · exact handle_halted _ _ _ s
  · rfl

/-- A received byte raises F2 alone (42_rx_parser R160 to R165). -/
theorem rxByte_halts (b : Byte) : HaltsOnlyBy .invalidMessage s (rxByte b s) := by
  unfold rxByte
  split
  next => exact .inl (seekByte_halted s b)
  next =>
    unfold headerByte
    split
    · exact headerPath_halts { s with rx := _ }
    · exact .inl rfl
  next => exact .inl (finishPayload_halted _)
  next => exact .inl (finishPayload_halted _)
  next =>
    unfold discardByte finishDiscard
    split <;> exact .inl rfl

theorem feedStep_halts : HaltsOnlyBy .invalidMessage s (feedStep s) := by
  unfold feedStep
  split
  · exact .inl rfl
  next b bs _ => exact (rxByte_halts s b).after_unlessHalted rfl

@[simp] theorem pollBegin_halted : (pollBegin s).halted = s.halted := by
  unfold pollBegin
  split <;> rfl

theorem pollerStep_halts : HaltsOnlyBy .invalidMessage s (pollerStep s) := by
  unfold pollerStep
  split
  · split
    · exact (rxByte_halts s _).after_unlessHalted rfl
    · exact .inl rfl
  · exact feedStep_halts s

/-! ### Transmission -/

variable (k : Nat)

@[simp] theorem endSend_halted (job : TxJob) (ok : Bool) : (endSend k job ok s).halted = s.halted := by
  cases job <;> rfl

@[simp] theorem stepAcquire_halted (job : TxJob) : (stepAcquire k job s).halted = s.halted := by
  unfold stepAcquire
  split <;> rfl

theorem stepPrepare_halted (ssid pass : List Byte) : (stepPrepare k ssid pass s).halted = s.halted := by
  rw [stepPrepare_eq]
  split <;> rfl

theorem stepBuild_halted (job : TxJob) : (stepBuild k job s).halted = s.halted := by
  unfold stepBuild
  rw [trackQuery_eq]
  split
  · rfl
  · exact endSend_halted s k job false

/-- S2 raises F1 only with a completion outstanding (41_transmit R132). -/
theorem stepStart_halted (job : TxJob) (hp : s.tx.pending = false) : (stepStart k job s).halted = s.halted := by
  unfold stepStart chunkAnswer
  rw [hp]
  split
  · rfl
  · rw [if_neg Bool.false_ne_true]
    split
    · rfl
    · exact endSend_halted _ k job false

theorem stepResume_halted (job : TxJob) : (stepResume k job s).halted = s.halted := by
  unfold stepResume
  split
  · rfl
  · split
    · rfl
    · split
      · rfl
      · exact endSend_halted _ k job false
      · split
        · exact endSend_halted _ k job true
        · rfl

theorem stepFinish_halted (ok : Bool) : (stepFinish k ok s).halted = s.halted := by
  unfold stepFinish commitIntron
  rw [casMode_eq]
  split <;> rfl

end

section

variable {s t : State} {k : Nat} {job : TxJob} {stage : TxStage}

/-- A caller that stands at S2 has no completion outstanding (10_state R44). -/
theorem txOk.not_pending_at_start (h : txOk s) (hop : callerOp s k = some (.tx job .start)) : s.tx.pending = false := by
  obtain ⟨-, hpending, -⟩ := (regsOk_sending rfl).mp (h.regs hop (by simp))
  exact Bool.eq_false_of_not_eq_true fun hp => nomatch hpending hp

/-- The labelled steps of a send stop nothing. -/
theorem stepTx_halted (h : txOk s) (hop : callerOp s k = some (.tx job stage)) : (stepTx k job stage s).halted = s.halted := by
  cases stage with
  | acquire => exact stepAcquire_halted s k job
  | prepare =>
    cases job with
    | send t v frags => rfl
    | join ssid pass => exact stepPrepare_halted s k ssid pass
  | build => exact stepBuild_halted s k job
  | start => exact stepStart_halted s k job (h.not_pending_at_start hop)
  | resume => exact stepResume_halted s k job
  | delay => rfl
  | finish ok => exact stepFinish_halted s k ok

/-- A completion stops nothing while its transfer is in flight (41_transmit R134). -/
theorem txDone_halted (st : DoneStatus) (hp : s.tx.pending = true) : (txDone st s).halted = s.halted := by
  unfold txDone
  rw [if_pos hp]
  cases st <;> rfl

/-! ### The steps -/

theorem callerStep_halted (h : txOk s) {op : CallerOp} (hop : callerOp s k = some op) :
    (callerStep k op s).halted = s.halted := by
  cases op with
  | initWait =>
    simp only [callerStep]
    split <;> simp
  | resetWait =>
    simp only [callerStep]
    split <;> simp
  | tx job stage => exact stepTx_halted h hop

/-- A continuation raises F2 alone. -/
theorem resumeAgent_halts (h : txOk s) (hresume : resumeAgent s = .next t) : HaltsOnlyBy .invalidMessage s t := by
  obtain ⟨-, rfl | ⟨k, op, -, hop, -, rfl⟩ | ⟨-, -, -, rfl⟩⟩ := resumeAgent_next hresume
  · exact .inl rfl
  · exact .inl (callerStep_halted h hop)
  · exact pollerStep_halts s

/-- Of the instructions' first steps only TX_DONE raises F1. -/
theorem firstStep_halts (i : Instr) (s : State) :
    HaltsOnlyBy .invalidMessage s (firstStep i s) ∨ HaltsOnlyBy .impossibleMode s (firstStep i s) ∨
      ∃ st, i = .txDone st := by
  cases i with
  | deviceInfo | clientConfig | packet | scanStart | scanStop | scanApGet | scanApCount | scanApInfo | invalid | rxFeed =>
    exact .inl (feedStep_halts { s with tasks.feed := _ })
  | rxByte b => exact .inl (rxByte_halts s b)
  | modeCas old new => exact .inr (.inl (modeCas_halts s old new))
  | txDone st => exact .inr (.inr ⟨st, rfl⟩)
  | init | reset | uartError =>
    refine .inl (.inl ?_)
    simp only [firstStep]
    split <;> simp
  | poll => exact .inl (.inl (pollBegin_halted s))
  | send | joinAp => exact .inl (.inl (stepAcquire_halted s _ _))
  | modeRead | linkUpRead | tickRead | macRead | apCountRead | apInfoTake | dmaWrite => exact .inl (.inl rfl)

end

/-- Settles O27, by the three things a step can be: a continuation raises no F1 under the invariant, and of the instructions'
first steps TX_DONE's does, with no transfer in flight. -/
theorem doubleSignalNeedsASpuriousCompletion : Obligations.DoubleSignalNeedsASpuriousCompletion := by
  intro s t ⟨_, _, _, _, htx, _⟩ hstep hfatal
  obtain ⟨hh, ⟨-, rfl⟩ | ⟨a, rest, -, hresume⟩ | ⟨a, fmt, bytes, rest, i, hin, hdecode, hexec⟩⟩ := step_next hstep
  · cases hh.symm.trans hfatal
  · exact absurd hfatal ((resumeAgent_halts (s := takeInput _ rest s) htx hresume).ne_of_ne hh (by decide))
  · obtain ⟨-, -, -, -, -, rfl⟩ := exec_next hexec
    obtain hF2 | hF3 | ⟨st, rfl⟩ := firstStep_halts i (takeInput _ rest s)
    · exact absurd hfatal (hF2.ne_of_ne hh (by decide))
    · exact absurd hfatal (hF3.ne_of_ne hh (by decide))
    · obtain ⟨tail, hdecode⟩ : ∃ tail, decode s.cfg fmt bytes = .ok (.txDone st, tail) := by simpa using hdecode
      refine ⟨Bool.eq_false_of_not_eq_true fun hp => ?_, a, fmt, bytes, tail, rest, st, hin, hdecode⟩
      have hkept : s.halted = some .doubleSignal := (txDone_halted (s := takeInput _ rest s) st hp).symm.trans hfatal
      cases hh.symm.trans hkept

end Sys2Proof.Machine
end

section
/-! Resynchronisation (42_rx_parser R160, 70_reset_and_hazards R299): in SEEKING_INTRON a byte changes IPOS, IBUF and SKIPPED
alone, and SKIPPED + IPOS counts every byte fed. So an intron that begins anew is found, where its first byte cannot be taken
for a later one, with the whole count before it reported. -/

namespace Sys2Proof.Machine

open Sys2Proof

section

variable {s : State}

/-! ### The garbage (R160) -/

/-- The state with other contents of the three registers that a byte writes in SEEKING_INTRON. -/
def seekingAt (ipos skipped : Nat) (ibuf : List Byte) (s : State) : State :=
  { s with rx := { s.rx with ipos := ipos, ibuf := ibuf, skipped := skipped } }

/-- A byte that does not complete the intron is matched, or the first of a new match, or given up: SKIPPED + IPOS counts it in
each case. -/
theorem rxByte_seeking (b : Byte) (hs : s.rx.pstate = .seekingIntron) (hnext : (rxByte b s).rx.pstate = .seekingIntron) :
    ∃ ipos skipped ibuf, rxByte b s = seekingAt ipos skipped ibuf s ∧ ibuf.length = s.rx.ibuf.length ∧
      skipped + ipos = s.rx.skipped + s.rx.ipos + 1 := by
  by_cases hb : s.sess.intron[s.rx.ipos]? = some b
  · rw [rxByte_of_intron hs hb] at hnext ⊢
    split at hnext
    next => cases hnext
    next hmore =>
      rw [if_neg hmore]
      exact ⟨_, _, _, rfl, List.length_set, (Nat.add_assoc _ _ _).symm⟩
  · rw [rxByte_of_mismatch hs hb]
    split
    · exact ⟨_, _, _, rfl, List.length_set, rfl⟩
    · exact ⟨_, _, _, rfl, rfl, rfl⟩

/-- Bytes none of which completes the intron. -/
theorem rxAll_seeking {bs : List Byte} (hh : s.halted = none)
    (hseek : ∀ n, n ≤ bs.length → (rxAll (bs.take n) s).rx.pstate = .seekingIntron) :
    ∃ ipos skipped ibuf, rxAll bs s = seekingAt ipos skipped ibuf s ∧ ibuf.length = s.rx.ibuf.length ∧
      skipped + ipos = s.rx.skipped + s.rx.ipos + bs.length := by
  induction bs generalizing s with
  | nil => exact ⟨_, _, _, rfl, rfl, rfl⟩
  | cons b bs ih =>
    have hrest : ∀ n, n ≤ bs.length → (rxAll (bs.take n) (rxByte b s)).rx.pstate = .seekingIntron := by
      intro n hn
      rw [← rxAll_cons b _ hh, ← List.take_succ_cons]
      exact hseek (n + 1) (Nat.succ_le_succ hn)
    obtain ⟨i, k, buf, hbyte, hbuf, hcount⟩ := rxByte_seeking (s := s) b (hseek 0 (Nat.zero_le _)) (hrest 0 (Nat.zero_le _))
    rw [hbyte] at hrest
    obtain ⟨i', k', buf', hbytes, hbuf', hcount'⟩ := ih (s := seekingAt i k buf s) hh hrest
    refine ⟨i', k', buf', ?_, hbuf'.trans hbuf, ?_⟩
    · rw [rxAll_cons b bs hh, hbyte, hbytes]
      rfl
    · have hsum : k' + i' = k + i + bs.length := hcount'
      rw [hsum, hcount, List.length_cons, Nat.add_right_comm _ 1, Nat.add_assoc]

/-! ### The intron after it -/

/-- An intron whose first byte stands nowhere later in it is found from any partial match: that byte gives the match up and
begins a new one. -/
theorem rxAll_intron_of_seeking {b : Byte} {later : List Byte} (hh : s.halted = none) (hs : s.rx.pstate = .seekingIntron)
    (hintron : s.sess.intron = b :: later) (hlen : s.sess.intron.length = s.cfg.intronLen) (hlater : later ≠ [])
    (hfresh : b ∉ later) (hbuf : s.rx.ibuf.length = s.cfg.intronLen) :
    rxAll s.sess.intron s = intronReceived { s with rx.skipped := s.rx.skipped + s.rx.ipos } := by
  rw [← hlen] at hbuf
  cases hpos : s.rx.ipos with
  | zero => exact rxAll_intron_rest (done := []) hh hs hlen rfl (by simp [hintron]) hpos rfl hbuf
  | succ i =>
    have hmismatch : ¬ s.sess.intron[s.rx.ipos]? = some b := by
      rw [hintron, hpos, List.getElem?_cons_succ]
      exact fun hb => hfresh (List.mem_of_getElem? hb)
    have hfirst : s.sess.intron[0]? = some b := by rw [hintron, List.getElem?_cons_zero]
    obtain ⟨j, junk, hjunk⟩ : ∃ j junk, s.rx.ibuf = j :: junk :=
      List.exists_cons_of_length_eq_add_one (hbuf.trans (congrArg List.length hintron))
    have hrest : rxAll later { s with rx := restartByte b s.rx } = intronReceived { s with rx := restartByte b s.rx } :=
      rxAll_intron_rest (done := [b]) (junk := junk) hh hs hlen hintron hlater rfl (by simp [restartByte, hjunk])
        (by simpa [hjunk, hintron] using hbuf)
    calc rxAll s.sess.intron s = rxAll later (rxByte b s) := by rw [hintron, rxAll_cons b later hh]
      _ = rxAll later { s with rx := restartByte b s.rx } := by rw [rxByte_of_mismatch hs hmismatch, if_pos hfirst]
      _ = intronReceived { s with rx.skipped := s.rx.skipped + (i + 1) } := by rw [hrest, ← hpos]; rfl

end

/-- Settles O45: the garbage leaves a partial match and a count, and from any partial match the intron is found. -/
theorem intronIsFoundAfterGarbage : Obligations.IntronIsFoundAfterGarbage := by
  intro s b later garbage hh hintron hlen hfour hfresh hs hipos hbuf hseek
  have hlater : later ≠ [] := by
    rintro rfl
    rw [← hlen, hintron, List.length_singleton] at hfour
    omega
  obtain ⟨i, k, buf, hgarbage, hbuf', hcount⟩ := rxAll_seeking hh hseek
  rw [rxAll_append, hgarbage]
  refine (rxAll_intron_of_seeking (s := seekingAt i k buf s) hh hs hintron hlen hlater hfresh (hbuf'.trans hbuf)).trans ?_
  have htotal : k + i = s.rx.skipped + garbage.length := by rw [hcount, hipos, Nat.add_zero]
  rw [← htotal]
  rfl

end Sys2Proof.Machine
end
